-- ==== Sys2Proof/Config.lean ====
section
/-!
DEFINITION. The parameters of the block (spec/00_scope.md rule R9) and the model's free values.
`Config` is what an instance of the block fixes at build time and no tick changes. The `opaque` constants at the end are
values the spec leaves open: they have no body, so nothing can compute or prove what they are.
-/
namespace Sys2Proof

/-- `CH2_SRC` (R9, R156; 92_eei_decisions.md D8): which live counter the increment of channel 2 reads. -/
inductive Ch2Src where
  /-- `CH2_SRC = 1`: channel 1's counter, the hardware as built (the spec's default). -/
  | asBuilt
  /-- `CH2_SRC = 2`: channel 2's own counter, the corrected design. -/
  | corrected
  deriving DecidableEq, Repr

namespace Config

/-- `NCH` (R9, U12): the number of channels. -/
abbrev nch : Nat := 4

/-- `CNT_W` (R9, U12): the width of each live counter and of each latched count. -/
abbrev cntW : Nat := 8

/-- The least legal `W` (R9): the reset value of `CPER` "needs 20 bits". -/
abbrev minW : Nat := 20

end Config

/-- The parameters of R9 that rules depend on. -/
structure Config where
  /-- `W`: the width of `CPER`, `cnt`, `wdata` and `rdata`; OPEN in the spec, at least 20 (R9, D3). -/
  w : Nat
  /-- `CH2_SRC` (R156, D8). -/
  ch2Src : Ch2Src
  /-- `CPER_RESET` (R9, D24, U6): the reset value of `CPER`. It has 20 bits, which is why `W` is at least 20 (R9; assumption log 13). -/
  cperReset : BitVec Config.minW
  deriving DecidableEq, Repr

namespace Config

/-- R9: "an instance with `W < 20` is outside this spec and a model refuses it". -/
abbrev ok (cfg : Config) : Prop := minW ≤ cfg.w

/-- The instance `State.reset` takes: `W = 20` (DESIGN CHOICE: R9 leaves `W` open; assumption log 1), `CH2_SRC = 1`, the spec's default
(D8; assumption log 2), and `CPER_RESET = 524288`, the value R9 gives, an unaudited literal of the source that stands in this one place
(D24; assumption log 13). Statements are about every configuration, not about this one. -/
def byDefault : Config := { w := 20, ch2Src := .asBuilt, cperReset := 524288 }

/-- FREE VALUE (R173, D12, U1; assumption log 7): `drawI k` is the 4-bit draw of tick `k`, whose bit `n-1` is what `I[n]` takes while
channel n is in cap mode. -/
opaque drawI : Nat → BitVec nch

/-- FREE VALUE (U10; assumption log 8): what `rdata` carries on tick `k` when the tick does not read. -/
opaque drawRdata : Nat → Nat

/-- FREE VALUE (R8, R80; assumption log 5): the control word the host presents on tick `k` when no program is loaded. -/
opaque envCtl : Nat → BitVec 7

/-- FREE VALUE (R8, R80; assumption log 5): the write data the host presents on tick `k` when no program is loaded. -/
opaque envWdata : Nat → Nat

/-- FREE VALUE (R8, R176; assumption log 5): the pad levels sensed on tick `k` when no program is loaded. -/
opaque envSense : Nat → BitVec nch

end Config

end Sys2Proof
end

