-- ==== Sys2Proof/Word.lean ====
section
/-!
DEFINITION. The word types of the block: 4-bit pad vectors, 8-bit counts, the 7-bit control word, channels, the phase of a channel's
state machine, the nine host-visible registers, and the raw step input of one tick.
-/
namespace Sys2Proof

/-- A 4-bit register or port with one bit per pad (`O`, `OE`, `I`, `CAPEN`, `sense`, `pad_o`, `pad_oe`); channel n is bit n-1 (R12). -/
abbrev Pads := BitVec Config.nch

/-- An 8-bit live counter or latched count (R27, R29). -/
abbrev Count := BitVec Config.cntW

/-- The control word `ctl[6:0]` of a step input (R81). -/
abbrev Ctl := BitVec 7

/-- The four channels, numbered as in R12. -/
inductive Channel where
  | ch1 | ch2 | ch3 | ch4
  deriving DecidableEq, Repr

/-- One value per channel, in channel order (R12). -/
structure PerChannel (α : Type) where
  ch1 : α
  ch2 : α
  ch3 : α
  ch4 : α
  deriving DecidableEq, Repr

/-- The two states of a channel's state machine (R150); the machine holds it as the one-bit flag `ph[n]` (R30). -/
inductive Phase where
  /-- `ph[n] = 0`: the pad is released and decaying. -/
  | sensing
  /-- `ph[n] = 1`: the pad is driven high during this tick. -/
  | charging
  deriving DecidableEq, Repr

/-- The nine host-visible registers, in the order of their indices (R60). -/
inductive Reg where
  | o | oe | i | capen | cper | c1 | c2 | c3 | c4
  deriving DecidableEq, Repr

/-- The raw step input of one tick (R80): a control word with two operands beside it. `wdata` is a plain number because its width
`W` is a parameter of the instance; it is cut to `W` bits when it enters the block (R83). -/
structure StepInput where
  ctl   : Ctl
  wdata : Nat
  sense : Pads
  deriving DecidableEq, Repr

end Sys2Proof
end

