-- ==== Sys2Proof/Syntax.lean ====
section
/-!
DEFINITION. The twenty operations of spec/opcode_table.json, one constructor per row (30_encoding.md R84).
An operation carries the operands it uses: `sense`, the four pad levels of its tick, for every operation but `RESET` (R81), and
`wdata`, the value of a write. The ignored operands of R88 are not part of it, except that a write to a read-only register keeps its
`wdata` as an operand ("Operands: `wdata` (ignored)", R107).
-/
namespace Sys2Proof

/-- One operation of the block, with its operands. -/
inductive Instr where
  /-- `RESET` (R184). -/
  | reset
  /-- `IDLE` (R120). -/
  | idle (sense : Pads)
  /-- `RD.O` (R102). -/
  | rdO (sense : Pads)
  /-- `RD.OE` (R104). -/
  | rdOe (sense : Pads)
  /-- `RD.I` (R106). -/
  | rdI (sense : Pads)
  /-- `RD.CAPEN` (R108). -/
  | rdCapen (sense : Pads)
  /-- `RD.CPER` (R110). -/
  | rdCper (sense : Pads)
  /-- `RD.C1` (R112). -/
  | rdC1 (sense : Pads)
  /-- `RD.C2` (R114). -/
  | rdC2 (sense : Pads)
  /-- `RD.C3` (R116). -/
  | rdC3 (sense : Pads)
  /-- `RD.C4` (R118). -/
  | rdC4 (sense : Pads)
  /-- `WR.O` (R103). -/
  | wrO (wdata : Nat) (sense : Pads)
  /-- `WR.OE` (R105). -/
  | wrOe (wdata : Nat) (sense : Pads)
  /-- `WR.I` (R107). -/
  | wrI (wdata : Nat) (sense : Pads)
  /-- `WR.CAPEN` (R109). -/
  | wrCapen (wdata : Nat) (sense : Pads)
  /-- `WR.CPER` (R111). -/
  | wrCper (wdata : Nat) (sense : Pads)
  /-- `WR.C1` (R113). -/
  | wrC1 (wdata : Nat) (sense : Pads)
  /-- `WR.C2` (R115). -/
  | wrC2 (wdata : Nat) (sense : Pads)
  /-- `WR.C3` (R117). -/
  | wrC3 (wdata : Nat) (sense : Pads)
  /-- `WR.C4` (R119). -/
  | wrC4 (wdata : Nat) (sense : Pads)
  deriving DecidableEq, Repr

end Sys2Proof
end

