-- ==== Sys2Proof/WellFormed.lean ====
section
/-!
DEFINITION. Which operations can be presented to an instance of width `W`.
The one check: `wdata` is a `W`-bit operand (30_encoding.md R80, R81), so a write carries a value below `2^W`. The other operands are
bit vectors of their exact width and cannot be ill-formed.
-/
namespace Sys2Proof

/-- `i` can be presented to an instance of width `w`: its write data fits the `w`-bit port (R81). -/
def Instr.wellFormed (w : Nat) : Instr → Bool
  | .reset => true
  | .idle _ => true
  | .rdO _ => true
  | .rdOe _ => true
  | .rdI _ => true
  | .rdCapen _ => true
  | .rdCper _ => true
  | .rdC1 _ => true
  | .rdC2 _ => true
  | .rdC3 _ => true
  | .rdC4 _ => true
  | .wrO v _ => decide (v < 2 ^ w)
  | .wrOe v _ => decide (v < 2 ^ w)
  | .wrI v _ => decide (v < 2 ^ w)
  | .wrCapen v _ => decide (v < 2 ^ w)
  | .wrCper v _ => decide (v < 2 ^ w)
  | .wrC1 v _ => decide (v < 2 ^ w)
  | .wrC2 v _ => decide (v < 2 ^ w)
  | .wrC3 v _ => decide (v < 2 ^ w)
  | .wrC4 v _ => decide (v < 2 ^ w)

end Sys2Proof
end

