-- ==== Sys2Proof/Decode.lean ====
section
/-!
DEFINITION. The decoder and the encoder of the step input (spec/30_encoding.md R80 to R88).
`decode` is total on every control word and every operand and follows the order of R82; a reserved word is rejected by name (R87).
`encode` gives the canonical word of R84 (all ignored bits 0). The flat form of a step input (`ofTableWord`, `toTableWord`) is the
model's own layout of the three separate operands in one number, bits numbered as spec/opcode_table.json numbers them
(assumption log 9).
-/
namespace Sys2Proof

/-- Why a step input decodes to no operation. -/
inductive DecodeError where
  /-- R87: `ctl[6:5] = 0b01` with a register index 9 to 15. -/
  | reservedIndex (ctl : Ctl)
  deriving DecidableEq, Repr

/-- The fields of the control word (R81). -/
def ctlRst (c : Ctl) : Bool := c.getLsbD 6

/-- `v`: a host register access is present (R81). -/
def ctlV (c : Ctl) : Bool := c.getLsbD 5

/-- `we`: 1 write, 0 read (R81). -/
def ctlWe (c : Ctl) : Bool := c.getLsbD 4

/-- `idx`: the register index (R81). -/
def ctlIdx (c : Ctl) : Nat := c.toNat % 16

/-- The register of an index (R60); none for the reserved indices 9 to 15. -/
def Reg.ofIndex : Nat → Option Reg
  | 0 => some .o
  | 1 => some .oe
  | 2 => some .i
  | 3 => some .capen
  | 4 => some .cper
  | 5 => some .c1
  | 6 => some .c2
  | 7 => some .c3
  | 8 => some .c4
  | _ => none

/-- The index of a register (R60). -/
def Reg.index : Reg → Nat
  | .o => 0
  | .oe => 1
  | .i => 2
  | .capen => 3
  | .cper => 4
  | .c1 => 5
  | .c2 => 6
  | .c3 => 7
  | .c4 => 8

/-- `RD.<reg>` (R84). -/
def Instr.ofRead (r : Reg) (sense : Pads) : Instr :=
  match r with
  | .o => .rdO sense
  | .oe => .rdOe sense
  | .i => .rdI sense
  | .capen => .rdCapen sense
  | .cper => .rdCper sense
  | .c1 => .rdC1 sense
  | .c2 => .rdC2 sense
  | .c3 => .rdC3 sense
  | .c4 => .rdC4 sense

/-- `WR.<reg>` (R84). -/
def Instr.ofWrite (r : Reg) (wdata : Nat) (sense : Pads) : Instr :=
  match r with
  | .o => .wrO wdata sense
  | .oe => .wrOe wdata sense
  | .i => .wrI wdata sense
  | .capen => .wrCapen wdata sense
  | .cper => .wrCper wdata sense
  | .c1 => .wrC1 wdata sense
  | .c2 => .wrC2 wdata sense
  | .c3 => .wrC3 wdata sense
  | .c4 => .wrC4 wdata sense

/-- The decoder, in the order of R82: reset first, then the valid bit, then the register index. -/
def decode (inp : StepInput) : Except DecodeError Instr :=
  if ctlRst inp.ctl then .ok .reset
  else if ctlV inp.ctl then
    match Reg.ofIndex (ctlIdx inp.ctl) with
    | some r =>
      if ctlWe inp.ctl then .ok (Instr.ofWrite r inp.wdata inp.sense)
      else .ok (Instr.ofRead r inp.sense)
    | none => .error (.reservedIndex inp.ctl)
  else .ok (.idle inp.sense)

/-- A value wider than `W` bits is cut to `W` bits on entry to `wdata` (R83). -/
def StepInput.onEntry (w : Nat) (inp : StepInput) : StepInput :=
  { inp with wdata := inp.wdata % 2 ^ w }

/-- The canonical control word of an operation (R84). -/
def Instr.ctl : Instr → Ctl
  | .reset => 0x40
  | .idle _ => 0x00
  | .rdO _ => 0x20
  | .rdOe _ => 0x21
  | .rdI _ => 0x22
  | .rdCapen _ => 0x23
  | .rdCper _ => 0x24
  | .rdC1 _ => 0x25
  | .rdC2 _ => 0x26
  | .rdC3 _ => 0x27
  | .rdC4 _ => 0x28
  | .wrO _ _ => 0x30
  | .wrOe _ _ => 0x31
  | .wrI _ _ => 0x32
  | .wrCapen _ _ => 0x33
  | .wrCper _ _ => 0x34
  | .wrC1 _ _ => 0x35
  | .wrC2 _ _ => 0x36
  | .wrC3 _ _ => 0x37
  | .wrC4 _ _ => 0x38

/-- The write data an operation carries; 0 where the port is ignored (R88). -/
def Instr.wdata : Instr → Nat
  | .reset => 0
  | .idle _ => 0
  | .rdO _ => 0
  | .rdOe _ => 0
  | .rdI _ => 0
  | .rdCapen _ => 0
  | .rdCper _ => 0
  | .rdC1 _ => 0
  | .rdC2 _ => 0
  | .rdC3 _ => 0
  | .rdC4 _ => 0
  | .wrO v _ => v
  | .wrOe v _ => v
  | .wrI v _ => v
  | .wrCapen v _ => v
  | .wrCper v _ => v
  | .wrC1 v _ => v
  | .wrC2 v _ => v
  | .wrC3 v _ => v
  | .wrC4 v _ => v

/-- The pad levels an operation carries; 0 for `RESET`, which ignores them (R88). -/
def Instr.sense : Instr → Pads
  | .reset => 0
  | .idle s => s
  | .rdO s => s
  | .rdOe s => s
  | .rdI s => s
  | .rdCapen s => s
  | .rdCper s => s
  | .rdC1 s => s
  | .rdC2 s => s
  | .rdC3 s => s
  | .rdC4 s => s
  | .wrO _ s => s
  | .wrOe _ s => s
  | .wrI _ s => s
  | .wrCapen _ s => s
  | .wrCper _ s => s
  | .wrC1 _ s => s
  | .wrC2 _ s => s
  | .wrC3 _ s => s
  | .wrC4 _ s => s

/-- The encoder: the step input that presents an operation, in its canonical form (R84). -/
def encode (i : Instr) : StepInput := { ctl := i.ctl, wdata := i.wdata, sense := i.sense }

/-- The `mask` column of R84 and spec/opcode_table.json: which bits of `ctl` select the row. -/
def Instr.rowMask : Instr → Ctl
  | .reset => 0x40
  | .idle _ => 0x60
  | .rdO _ => 0x7F
  | .rdOe _ => 0x7F
  | .rdI _ => 0x7F
  | .rdCapen _ => 0x7F
  | .rdCper _ => 0x7F
  | .rdC1 _ => 0x7F
  | .rdC2 _ => 0x7F
  | .rdC3 _ => 0x7F
  | .rdC4 _ => 0x7F
  | .wrO _ _ => 0x7F
  | .wrOe _ _ => 0x7F
  | .wrI _ _ => 0x7F
  | .wrCapen _ _ => 0x7F
  | .wrCper _ _ => 0x7F
  | .wrC1 _ _ => 0x7F
  | .wrC2 _ _ => 0x7F
  | .wrC3 _ _ => 0x7F
  | .wrC4 _ _ => 0x7F

/-- R84: "a word `c` selects the row when `c & mask = match`"; the `match` column is the canonical word. -/
def Instr.selectedBy (i : Instr) (c : Ctl) : Bool := c &&& i.rowMask == i.ctl

/-- The step input laid out in one number (DESIGN CHOICE, assumption log 9): `ctl` in bits 6:0, `sense` in bits 11:8, `wdata` from bit
12 up; the control port has no bit 7. -/
def StepInput.toTableWord (inp : StepInput) : Nat :=
  inp.ctl.toNat + 256 * inp.sense.toNat + 4096 * inp.wdata

/-- The step input whose low `nbits` bits are `w` and whose bits above are 0. -/
def StepInput.ofTableWord (nbits w : Nat) : StepInput :=
  let b := w % 2 ^ nbits
  { ctl := BitVec.ofNat 7 b, wdata := b / 4096, sense := BitVec.ofNat Config.nch (b / 256) }

/-- What the decoder reads from a word numbered as spec/opcode_table.json numbers its bits; none where it refuses. -/
def decodeTableWord (nbits w : Nat) : Option Instr :=
  match decode (StepInput.ofTableWord nbits w) with
  | .ok i => some i
  | .error _ => none

end Sys2Proof
end

