-- ==== Sys2Proof/Machine/State.lean ====
section
/-!
DEFINITION. The state of the machine and its value after reset (spec/10_state.md R20 to R39).
The first nine fields are the spec's whole state. `cfg` holds the instance's parameters, which no tick changes. `inputs`, `draws` and
`out` are the model's own: `step` is a function of the state alone, so the inputs still to come, the index of the free values and the
outputs of the last tick stand beside the block's state (assumption logs 4, 6 and 7).
-/
namespace Sys2Proof.Machine

/-- The output record of one tick (R14): what the pads are told and what the read port carries. -/
structure StepOutput where
  /-- `pad_o[3:0]` (R170). -/
  padO : Pads
  /-- `pad_oe[3:0]` (R171). -/
  padOe : Pads
  /-- `rdata[W-1:0]`, meaningful only on a read (R81). -/
  rdata : Nat
  deriving DecidableEq, Repr

/-- The state of one instance of the block. -/
structure State where
  /-- `O` (R22). -/
  o : Pads
  /-- `OE` (R23). -/
  oe : Pads
  /-- `I` (R24). -/
  i : Pads
  /-- `CAPEN` (R25). -/
  capen : Pads
  /-- `CPER` (R26): a `W`-bit value; `W` is a parameter, so it is a number with the invariant `cper < 2^W` (assumption log 3). -/
  cper : Nat
  /-- `C1` to `C4` (R27). -/
  c : PerChannel Count
  /-- `cnt` (R28): a `W`-bit value, with the invariant `cnt < 2^W` (assumption log 3). -/
  cnt : Nat
  /-- `live[1..4]` (R29). -/
  live : PerChannel Count
  /-- `ph[1..4]` (R30). -/
  ph : PerChannel Phase
  /-- The instance's parameters (R9). -/
  cfg : Config
  /-- The model's own: step inputs still to be presented, the next one first (R80). -/
  inputs : List StepInput
  /-- The model's own: the index of this tick's free values; it advances on every tick, `RESET` included. -/
  draws : Nat
  /-- The model's own: the outputs of the last tick (R14), none before the first one. -/
  out : Option StepOutput
  deriving DecidableEq, Repr

/-- Reasons to stop with a fault: none. The block raises no exception of any kind (R190: "This core has no recoverable-error
taxonomy"; 93_implementation_defined.md: no `fault` and no `stuck` treatment anywhere), so no value of this type exists. Safe. -/
inductive Fault : Type
  deriving DecidableEq, Repr

/-- Reasons the model gives no meaning to a tick. -/
inductive Refusal where
  /-- An operation whose meaning is not written yet, by its mnemonic; raised by `exec` alone. Safe. -/
  | notModelled (mnemonic : String)
  /-- R87, D7: the tick's control word names a reserved register index; raised by `step`. "the machine refuses the step". Safe: no claim
  about a run containing such a word can be made. -/
  | reservedControlWord (ctl : Ctl)
  /-- R9, D3: the instance has `W < 20`; raised by `step`. "a model refuses it". Safe. -/
  | widthBelowTwenty (w : Nat)
  deriving DecidableEq, Repr

/-- What one tick answers. -/
abbrev Result := Host.Outcome State Fault Refusal

/-- The reset state of an instance (R37, R210), before its first tick. -/
def State.resetOf (cfg : Config) : State :=
  { o := 0
    oe := 0
    i := 0
    capen := 0
    cper := cfg.cperReset.toNat
    c := { ch1 := 0, ch2 := 0, ch3 := 0, ch4 := 0 }
    cnt := 0
    live := { ch1 := 0, ch2 := 0, ch3 := 0, ch4 := 0 }
    ph := { ch1 := .sensing, ch2 := .sensing, ch3 := .sensing, ch4 := .sensing }
    cfg := cfg
    inputs := []
    draws := 0
    out := none }

/-- The machine right after reset (R37, R210), for the default instance (assumption logs 1 and 2). "Power-on is modelled as starting in
`RESET_STATE`" (R184). -/
def State.reset : State := State.resetOf Config.byDefault

end Sys2Proof.Machine
end

