-- ==== Sys2Proof/Machine/Operands.lean ====
section
/-!
DEFINITION. Operand forms: the channel numbering of the 4-bit words, the widths of the registers, truncation on a write and
zero-extension on a read, and the decoded input record of a tick (spec/00_scope.md R11 to R14, 20_memory.md R60, R64).
-/
namespace Sys2Proof.Machine

/-- Bit `n-1` of a 4-bit word is channel n (R12, D2). -/
def padIndex : Channel → Nat
  | .ch1 => 0
  | .ch2 => 1
  | .ch3 => 2
  | .ch4 => 3

/-- `v[n]` in the shorthand of R12: the bit of channel `n`. -/
def padBit (v : Pads) (n : Channel) : Bool := v.getLsbD (padIndex n)

/-- The 4-bit word with the given bit for each channel (R12). -/
def padsOf (f : Channel → Bool) : Pads :=
  BitVec.ofBool (f .ch4) ++ BitVec.ofBool (f .ch3) ++ BitVec.ofBool (f .ch2) ++ BitVec.ofBool (f .ch1)

/-- The element of channel `n` of a per-channel tuple (R12). -/
def ofChannel {α : Type} (t : PerChannel α) (n : Channel) : α :=
  match n with
  | .ch1 => t.ch1
  | .ch2 => t.ch2
  | .ch3 => t.ch3
  | .ch4 => t.ch4

/-- The per-channel tuple with the given element for each channel: "one channel state machine parameterized by channel index,
instantiated four times" (R163). -/
def perChannel {α : Type} (f : Channel → α) : PerChannel α :=
  { ch1 := f .ch1, ch2 := f .ch2, ch3 := f .ch3, ch4 := f .ch4 }

/-- `ph[n]` as the bit it is on the wire (R150): 1 is Charging. -/
def phaseBit : Phase → Bool
  | .sensing => false
  | .charging => true

/-- `trunc_4` of a written value (R11, R64): `wdata[3:0]`. -/
def truncPads (v : Nat) : Pads := BitVec.ofNat Config.nch v

/-- `trunc_W` of a written value (R11, R64): `wdata[W-1:0]`. -/
def truncW (cfg : Config) (v : Nat) : Nat := v % 2 ^ cfg.w

/-- `zext_W` of a register's bits (R11, R64, D21): the value is unchanged, the added high bits are 0. -/
def zextW {n : Nat} (v : BitVec n) : Nat := v.toNat

/-- The host operation of a tick: `idle`, `rd i`, `wr i v` of R14. -/
inductive HostOp where
  | idle
  | rd (r : Reg)
  | wr (r : Reg) (v : Nat)
  deriving DecidableEq, Repr

/-- The decoded input record `(op, sense)` of R14 for a tick with `rst = 0`; none for `RESET`. -/
def tickInput : Instr → Option (HostOp × Pads)
  | .reset => none
  | .idle s => some (.idle, s)
  | .rdO s => some (.rd .o, s)
  | .rdOe s => some (.rd .oe, s)
  | .rdI s => some (.rd .i, s)
  | .rdCapen s => some (.rd .capen, s)
  | .rdCper s => some (.rd .cper, s)
  | .rdC1 s => some (.rd .c1, s)
  | .rdC2 s => some (.rd .c2, s)
  | .rdC3 s => some (.rd .c3, s)
  | .rdC4 s => some (.rd .c4, s)
  | .wrO v s => some (.wr .o v, s)
  | .wrOe v s => some (.wr .oe v, s)
  | .wrI v s => some (.wr .i v, s)
  | .wrCapen v s => some (.wr .capen v, s)
  | .wrCper v s => some (.wr .cper v, s)
  | .wrC1 v s => some (.wr .c1 v, s)
  | .wrC2 v s => some (.wr .c2 v, s)
  | .wrC3 v s => some (.wr .c3 v, s)
  | .wrC4 v s => some (.wr .c4 v, s)

end Sys2Proof.Machine
end

