-- ==== Sys2Proof/Machine/Flags.lean ====
section
/-!
DEFINITION. The derived signals of a tick and the only flag-like state of the block, the phase flags (spec/10_state.md R30, R31,
R39; 42_channel_fsm.md R150 to R161). All of them read pre-tick values only (R181). There is no other flag: no carry, no overflow, no
status or error bit (R30).
-/
namespace Sys2Proof.Machine

/-- `any_en`: some channel is in cap mode (R31, R130). -/
def anyEn (s : State) : Bool := s.capen != 0

/-- `latch`: this tick is a latch tick (R132, R136). -/
def latch (s : State) : Bool := anyEn s && s.cnt == 0

/-- `ev[n]`: channel `n` has a discharge event on this tick (R154, R155). -/
def ev (s : State) (sense : Pads) (n : Channel) : Bool :=
  padBit s.capen n && ofChannel s.ph n == .sensing && !padBit sense n

/-- `ph[n]'`: the next phase of channel `n` (R152, R153, R154; held in GPIO mode, R159). -/
def nextPh (s : State) (sense : Pads) (n : Channel) : Phase :=
  if padBit s.capen n then
    match ofChannel s.ph n with
    | .charging => .sensing
    | .sensing => if padBit sense n then .sensing else .charging
  else ofChannel s.ph n

end Sys2Proof.Machine
end

