-- ==== Sys2Proof/Machine/Channel.lean ====
section
/-!
DEFINITION. The live event counter of a channel (spec/42_channel_fsm.md R155 to R157); its phase is in Machine/Flags.lean.
-/
namespace Sys2Proof.Machine

/-- `src(n)` (R155, R156): the counter an event of channel `n` increments from; channel 2's is the parameter `CH2_SRC`. -/
def liveSrc (s : State) (n : Channel) : Count :=
  match n with
  | .ch2 =>
    match s.cfg.ch2Src with
    | .asBuilt => s.live.ch1
    | .corrected => s.live.ch2
  | n => ofChannel s.live n

/-- `live[n]'` (R155): the latch's clear has priority over the event's increment (R134, D10); the increment wraps (R157, R186). -/
def nextLive (s : State) (sense : Pads) (n : Channel) : Count :=
  if latch s then 0
  else if ev s sense n then liveSrc s n + 1
  else ofChannel s.live n

end Sys2Proof.Machine
end

