-- ==== Sys2Proof/Machine/Gpio.lean ====
section
/-!
DEFINITION. The pad multiplexer and the input mirror (spec/43_gpio_passthrough.md R170 to R174; 42_channel_fsm.md R158).
-/
namespace Sys2Proof.Machine

/-- `pad_o` (R170): high in cap mode, else `O[n]`; a function of the pre-tick state (D22). -/
def padO (s : State) : Pads :=
  padsOf fun n => if padBit s.capen n then true else padBit s.o n

/-- `pad_oe` (R171): the phase flag in cap mode, else `OE[n]`; a function of the pre-tick state (D22). -/
def padOe (s : State) : Pads :=
  padsOf fun n => if padBit s.capen n then phaseBit (ofChannel s.ph n) else padBit s.oe n

/-- `I'` (R172, R173): the sensed level in GPIO mode; in cap mode this tick's free bit (assumption log 7). -/
def nextI (s : State) (sense : Pads) : Pads :=
  padsOf fun n => if padBit s.capen n then padBit (Config.drawI s.draws) n else padBit sense n

end Sys2Proof.Machine
end

