-- ==== Sys2Proof/Machine/Scheduler.lean ====
section
/-!
DEFINITION. The sampling scheduler: the shared countdown and the latch event (spec/41_scheduler.md R130 to R141).
-/
namespace Sys2Proof.Machine

/-- `cnt'` (R131, R132, R135): frozen while no channel is enabled, else counted down, else reloaded from the pre-tick `CPER`. -/
def nextCnt (s : State) : Nat :=
  if anyEn s then
    if s.cnt = 0 then s.cper else s.cnt - 1
  else s.cnt

/-- `C[n]'` (R133, R135): the pre-tick live count on a latch tick, for every channel, enabled or not (D19). -/
def nextC (s : State) (n : Channel) : Count :=
  if latch s then ofChannel s.live n else ofChannel s.c n

end Sys2Proof.Machine
end

