-- ==== Sys2Proof/Machine/Ops.lean ====
section
/-!
DEFINITION. The operations every meaning is made of: reading and writing a register by name, the block's own update of one tick, the
reset of the block, and taking the next step input.
Taking an exception and returning from one have no operation here, because the block has neither: "There is no trap entry, no saved
state, no vector, no handler, no trap return" (spec/60_exceptions.md R193).
-/
namespace Sys2Proof.Machine

/-- `RegRead` (R13, R100): the register's value, zero-extended to `W` bits; no side effect (R66). -/
def regRead (s : State) (r : Reg) : Nat :=
  match r with
  | .o => zextW s.o
  | .oe => zextW s.oe
  | .i => zextW s.i
  | .capen => zextW s.capen
  | .cper => s.cper
  | .c1 => zextW s.c.ch1
  | .c2 => zextW s.c.ch2
  | .c3 => zextW s.c.ch3
  | .c4 => zextW s.c.ch4

/-- `RegWrite` (R13, R101): a writable register takes the value cut to its width; a read-only register keeps its own (R67, D6). -/
def regWrite (r : Reg) (v : Nat) (s : State) : State :=
  match r with
  | .o => { s with o := truncPads v }
  | .oe => { s with oe := truncPads v }
  | .i => s
  | .capen => { s with capen := truncPads v }
  | .cper => { s with cper := truncW s.cfg v }
  | .c1 => s
  | .c2 => s
  | .c3 => s
  | .c4 => s

/-- What `rdata` carries on a tick that does not read: any `W`-bit value (U10; assumption log 8). -/
def freeRdata (s : State) : Nat := truncW s.cfg (Config.drawRdata s.draws)

/-- The outputs of a tick (R183): the pads from the pre-tick state, and what the read port carries. -/
def outputs (s : State) (rdata : Nat) : StepOutput :=
  { padO := padO s, padOe := padOe s, rdata := rdata }

/-- The block's own update of one tick with `rst = 0` (R183): every right-hand side reads the pre-tick state `s` (R181). -/
def blockTick (s : State) (sense : Pads) (rdata : Nat) : State :=
  { s with
    i := nextI s sense
    c := perChannel (nextC s)
    cnt := nextCnt s
    live := perChannel (nextLive s sense)
    ph := perChannel (nextPh s sense)
    draws := s.draws + 1
    out := some (outputs s rdata) }

/-- A tick without a host access (R120). -/
def idleTick (s : State) (sense : Pads) : State := blockTick s sense (freeRdata s)

/-- A tick with a read (R100): the read port carries the pre-tick value (R70). -/
def readTick (r : Reg) (s : State) (sense : Pads) : State := blockTick s sense (regRead s r)

/-- A tick with a write (R101): the block's update uses the old value, the new one is in the post-tick state (R69). No element is
written by both (R101, R182), so the composition is a simultaneous assignment. -/
def writeTick (r : Reg) (v : Nat) (s : State) (sense : Pads) : State := regWrite r v (idleTick s sense)

/-- Every element of the block's state at its reset value (R37, R210); the configuration and the model's own fields keep theirs. -/
def resetBlock (s : State) : State :=
  { State.resetOf s.cfg with inputs := s.inputs, draws := s.draws, out := s.out }

/-- A tick with `rst = 1` (R184, D14): nothing but the reset happens, and the outputs are still those of the pre-tick state. -/
def resetTick (s : State) : State :=
  { resetBlock s with
    draws := s.draws + 1
    out := some (outputs s (freeRdata s)) }

/-- The step input this tick consumes (R80): the next one of the loaded program, or a free one when none is loaded (assumption log 5);
its write data is cut to `W` bits on entry (R83). -/
def fetch (s : State) : StepInput :=
  match s.inputs with
  | inp :: _ => inp.onEntry s.cfg.w
  | [] =>
    StepInput.onEntry s.cfg.w
      { ctl := Config.envCtl s.draws, wdata := Config.envWdata s.draws, sense := Config.envSense s.draws }

/-- The state with the consumed step input taken out of the queue. -/
def consume (s : State) : State := { s with inputs := s.inputs.tail }

end Sys2Proof.Machine
end

