-- ==== Sys2Proof/Machine/Control.lean ====
section
/-!
DEFINITION. The two operations without a host access: `IDLE` (spec/40_register_ops.md R120) and `RESET` (spec/44_step.md R184).
-/
namespace Sys2Proof.Machine

/-- `IDLE` (R120): the host part is empty, the block's own update runs. -/
def execIdle (sense : Pads) (s : State) : Result := .next (idleTick s sense)

/-- `RESET` (R184): the reset state, whatever else is presented. -/
def execReset (s : State) : Result := .next (resetTick s)

end Sys2Proof.Machine
end

