-- ==== Sys2Proof/Machine/RegReads.lean ====
section
/-!
DEFINITION. The nine reads `RD.<reg>` (spec/40_register_ops.md R100, R102 to R118): `rdata` is the pre-tick value of the register,
zero-extended to `W` bits, and the block's own update runs as on every tick.
-/
namespace Sys2Proof.Machine

/-- `RD.O` (R102): the stored host value, also for channels in cap mode. -/
def execRdO (sense : Pads) (s : State) : Result := .next (readTick .o s sense)

/-- `RD.OE` (R104): the host's stored request, never the phase flag. -/
def execRdOe (sense : Pads) (s : State) : Result := .next (readTick .oe s sense)

/-- `RD.I` (R106): the pre-tick mirror; a bit of a channel in cap mode is an unspecified bit (R173). -/
def execRdI (sense : Pads) (s : State) : Result := .next (readTick .i s sense)

/-- `RD.CAPEN` (R108): the stored value. -/
def execRdCapen (sense : Pads) (s : State) : Result := .next (readTick .capen s sense)

/-- `RD.CPER` (R110): the register, not the countdown. -/
def execRdCper (sense : Pads) (s : State) : Result := .next (readTick .cper s sense)

/-- `RD.C1` (R112): the count latched last; reading does not clear it. -/
def execRdC1 (sense : Pads) (s : State) : Result := .next (readTick .c1 s sense)

/-- `RD.C2` (R114): the count latched last (see R156 for what channel 2 counts as built). -/
def execRdC2 (sense : Pads) (s : State) : Result := .next (readTick .c2 s sense)

/-- `RD.C3` (R116): the count latched last. -/
def execRdC3 (sense : Pads) (s : State) : Result := .next (readTick .c3 s sense)

/-- `RD.C4` (R118): the count latched last. -/
def execRdC4 (sense : Pads) (s : State) : Result := .next (readTick .c4 s sense)

end Sys2Proof.Machine
end

