-- ==== Sys2Proof/Machine/RegWrites.lean ====
section
/-!
DEFINITION. The nine writes `WR.<reg>` (spec/40_register_ops.md R101, R103 to R119): a writable register takes the written value cut to
its width, a read-only one ignores it, and the block's own update runs as on every tick, from the old values.
-/
namespace Sys2Proof.Machine

/-- `WR.O` (R103): `O' <- wdata[3:0]`. -/
def execWrO (wdata : Nat) (sense : Pads) (s : State) : Result := .next (writeTick .o wdata s sense)

/-- `WR.OE` (R105): `OE' <- wdata[3:0]`. -/
def execWrOe (wdata : Nat) (sense : Pads) (s : State) : Result := .next (writeTick .oe wdata s sense)

/-- `WR.I` (R107): read-only, no value of `wdata` has any effect. -/
def execWrI (wdata : Nat) (sense : Pads) (s : State) : Result := .next (writeTick .i wdata s sense)

/-- `WR.CAPEN` (R109): `CAPEN' <- wdata[3:0]`; `cnt`, `live` and `ph` are not reset by it, and this tick still uses the old value. -/
def execWrCapen (wdata : Nat) (sense : Pads) (s : State) : Result := .next (writeTick .capen wdata s sense)

/-- `WR.CPER` (R111): `CPER' <- wdata[W-1:0]`; the countdown in progress is not touched. -/
def execWrCper (wdata : Nat) (sense : Pads) (s : State) : Result := .next (writeTick .cper wdata s sense)

/-- `WR.C1` (R113): read-only, cannot clear or preset the count. -/
def execWrC1 (wdata : Nat) (sense : Pads) (s : State) : Result := .next (writeTick .c1 wdata s sense)

/-- `WR.C2` (R115): read-only, cannot clear or preset the count. -/
def execWrC2 (wdata : Nat) (sense : Pads) (s : State) : Result := .next (writeTick .c2 wdata s sense)

/-- `WR.C3` (R117): read-only, cannot clear or preset the count. -/
def execWrC3 (wdata : Nat) (sense : Pads) (s : State) : Result := .next (writeTick .c3 wdata s sense)

/-- `WR.C4` (R119): read-only, cannot clear or preset the count. -/
def execWrC4 (wdata : Nat) (sense : Pads) (s : State) : Result := .next (writeTick .c4 wdata s sense)

end Sys2Proof.Machine
end

