-- ==== Sys2Proof/Machine/Dispatch.lean ====
section
/-! DEFINITION. One arm per operation of spec/opcode_table.json, each one call of its meaning. -/
namespace Sys2Proof.Machine

def exec (i : Instr) (s : State) : Host.Outcome State Fault Refusal :=
  match i with
  | .reset => Sys2Proof.Machine.execReset s
  | .idle sense => Sys2Proof.Machine.execIdle sense s
  | .rdO sense => Sys2Proof.Machine.execRdO sense s
  | .rdOe sense => Sys2Proof.Machine.execRdOe sense s
  | .rdI sense => Sys2Proof.Machine.execRdI sense s
  | .rdCapen sense => Sys2Proof.Machine.execRdCapen sense s
  | .rdCper sense => Sys2Proof.Machine.execRdCper sense s
  | .rdC1 sense => Sys2Proof.Machine.execRdC1 sense s
  | .rdC2 sense => Sys2Proof.Machine.execRdC2 sense s
  | .rdC3 sense => Sys2Proof.Machine.execRdC3 sense s
  | .rdC4 sense => Sys2Proof.Machine.execRdC4 sense s
  | .wrO wdata sense => Sys2Proof.Machine.execWrO wdata sense s
  | .wrOe wdata sense => Sys2Proof.Machine.execWrOe wdata sense s
  | .wrI wdata sense => Sys2Proof.Machine.execWrI wdata sense s
  | .wrCapen wdata sense => Sys2Proof.Machine.execWrCapen wdata sense s
  | .wrCper wdata sense => Sys2Proof.Machine.execWrCper wdata sense s
  | .wrC1 wdata sense => Sys2Proof.Machine.execWrC1 wdata sense s
  | .wrC2 wdata sense => Sys2Proof.Machine.execWrC2 wdata sense s
  | .wrC3 wdata sense => Sys2Proof.Machine.execWrC3 wdata sense s
  | .wrC4 wdata sense => Sys2Proof.Machine.execWrC4 wdata sense s

end Sys2Proof.Machine
end

