-- ==== Sys2Proof/Machine/Step.lean ====
section
/-!
DEFINITION. One tick of the machine: refuse an instance outside the spec, take the next step input, decode it, run it
(spec/44_step.md R180 to R185).
-/
namespace Sys2Proof.Machine

/-- One tick (R180): the consumed step input leaves the queue and the decoded operation runs; a reserved control word and an instance
with `W < 20` are refused and nothing happens (R87, R9). -/
def step (s : State) : Host.Outcome State Fault Refusal :=
  if s.cfg.ok then
    match decode (fetch s) with
    | .ok i => exec i (consume s)
    | .error (.reservedIndex c) => .refused (.reservedControlWord c)
  else .refused (.widthBelowTwenty s.cfg.w)

/-- `s` with the step input of a table word (`nbits` bits of `w`, bits above them 0) as the next one `step` takes (assumption logs 4
and 9). -/
def State.withFetchWord (s : State) (nbits w : Nat) : State :=
  { s with inputs := StepInput.ofTableWord nbits w :: s.inputs.tail }

end Sys2Proof.Machine
end

