-- ==== Sys2Proof/Safety.lean ====
section
/-!
DEFINITION. The terms the claims use: legal states, runs, and what one tick does, written as a relation between the pre-tick and the
post-tick state in the words of spec/44_step.md R183 and not through the machine's own functions.
-/
namespace Sys2Proof.Machine

/-- A legal state: an instance inside the spec (R9) whose `W`-bit values fit `W` bits (R26, R28, R81, R140). -/
abbrev State.legal (s : State) : Prop :=
  s.cfg.ok ∧ s.cper < 2 ^ s.cfg.w ∧ s.cnt < 2 ^ s.cfg.w ∧
    s.out.all (fun y => decide (y.rdata < 2 ^ s.cfg.w)) = true

/-- The tick from `s` is a latch tick: `any_en and (cnt = 0)` (R132, R136). -/
abbrev State.latchTick (s : State) : Prop := s.capen ≠ 0 ∧ s.cnt = 0

/-- Channel `n` has a discharge event on the tick from `s` (R154, R155). -/
abbrev State.event (s : State) (sense : Pads) (n : Channel) : Prop :=
  padBit s.capen n = true ∧ ofChannel s.ph n = .sensing ∧ padBit sense n = false

/-- The block's part of one tick with `rst = 0` (R183), from pre-tick state `s` to post-tick state `t`. The `I` bits of channels in cap
mode are left open (R173), and so is `rdata`. -/
structure BlockTick (s : State) (sense : Pads) (t : State) : Prop where
  /-- R136. -/
  cnt : t.cnt = if s.capen = 0 then s.cnt else if s.cnt ≠ 0 then s.cnt - 1 else s.cper
  /-- R133. -/
  c : ∀ n, ofChannel t.c n = if s.latchTick then ofChannel s.live n else ofChannel s.c n
  /-- R155, R157: the count after an event is the source's count plus one, modulo 256. -/
  live : ∀ n, (ofChannel t.live n).toNat =
    if s.latchTick then 0
    else if s.event sense n then
      ((if n = .ch2 ∧ s.cfg.ch2Src = .asBuilt then s.live.ch1 else ofChannel s.live n).toNat + 1) % 256
    else (ofChannel s.live n).toNat
  /-- R161. -/
  ph : ∀ n, ofChannel t.ph n =
    if padBit s.capen n = false then ofChannel s.ph n else if s.event sense n then .charging else .sensing
  /-- R172. -/
  mirror : ∀ n, padBit s.capen n = false → padBit t.i n = padBit sense n
  /-- R170, R171: outputs are functions of the pre-tick state. -/
  pads : ∃ y, t.out = some y ∧
    (∀ n, padBit y.padO n = if padBit s.capen n = true then true else padBit s.o n) ∧
    (∀ n, padBit y.padOe n =
      if padBit s.capen n = true then decide (ofChannel s.ph n = .charging) else padBit s.oe n)
  /-- R9, R39: parameters are not state. -/
  cfg : t.cfg = s.cfg
  /-- The operation itself takes no further step input (R80: one per tick). -/
  inputs : t.inputs = s.inputs

/-- The four host-writable registers of `t` are the given ones. -/
def HostRegsAre (t : State) (o oe capen : Pads) (cper : Nat) : Prop :=
  t.o = o ∧ t.oe = oe ∧ t.capen = capen ∧ t.cper = cper

/-- `i` completes from `s` as a tick that holds the host-writable registers (R100, R120). -/
def RunsHoldingHostRegs (i : Instr) (s : State) (sense : Pads) : Prop :=
  ∃ t, exec i s = .next t ∧ BlockTick s sense t ∧ HostRegsAre t s.o s.oe s.capen s.cper

/-- `i` completes from `s` as a tick that reads `v` and holds the host-writable registers (R100). -/
def RunsReading (i : Instr) (s : State) (sense : Pads) (v : Nat) : Prop :=
  ∃ t, exec i s = .next t ∧ BlockTick s sense t ∧ HostRegsAre t s.o s.oe s.capen s.cper ∧
    t.out.map StepOutput.rdata = some v

/-- `i` completes from `s` as a tick with a host write of `v` to register `r` (R101): the four writable registers take the value cut to
their width, the five read-only ones ignore it (R67). -/
def RunsWriting (i : Instr) (s : State) (sense : Pads) (r : Reg) (v : Nat) : Prop :=
  ∃ t, exec i s = .next t ∧ BlockTick s sense t ∧
    HostRegsAre t
      (if r = .o then BitVec.ofNat 4 v else s.o)
      (if r = .oe then BitVec.ofNat 4 v else s.oe)
      (if r = .capen then BitVec.ofNat 4 v else s.capen)
      (if r = .cper then v % 2 ^ s.cfg.w else s.cper)

/-- The nine elements of the block's state have the values of R37, that of `CPER` being the instance's `CPER_RESET` (R9, D24). -/
structure InResetState (t : State) : Prop where
  o : t.o = 0
  oe : t.oe = 0
  i : t.i = 0
  capen : t.capen = 0
  cper : t.cper = t.cfg.cperReset.toNat
  c : ∀ n, ofChannel t.c n = 0
  cnt : t.cnt = 0
  live : ∀ n, ofChannel t.live n = 0
  ph : ∀ n, ofChannel t.ph n = .sensing

/-- A run of operations, one per tick (R68): it stops at the first that does not complete. -/
def runInstrs : List Instr → State → Result
  | [], s => .next s
  | i :: is, s =>
    match exec i s with
    | .next t => runInstrs is t
    | .fault r => .fault r
    | .refused r => .refused r

/-- `P` holds of `s` and of every state the run of `is` from `s` passes through, its last one included. -/
def AlongRun (P : State → Prop) : List Instr → State → Prop
  | [], s => P s
  | i :: is, s => P s ∧ ∀ t, exec i s = .next t → AlongRun P is t

end Sys2Proof.Machine
end

