-- ==== Sys2Proof/Certificates/Slice0/Obligations.lean ====
section
/-!
DEFINITION. The statements for the provers. Each docstring names the rule of spec/ it formalises; `notes/assumptions/<n>.md` is written
"log <n>". The vocabulary (`BlockTick`, `RunsReading`, `RunsWriting`, `InResetState`, `State.latchTick`, `State.event`, `AlongRun`, …)
is that of Sys2Proof/Safety.lean.
-/
open Sys2Proof Sys2Proof.Machine

/-! ### Numbering, encoding and decoding -/

/-- R12 (D2): channel n is bit n-1 of every 4-bit word. R60 (D1): the register indices. -/
def Obligations.ChannelsAndRegistersAreNumberedAsTheSpecSays : Prop :=
  (∀ v : Pads, padBit v .ch1 = v.getLsbD 0 ∧ padBit v .ch2 = v.getLsbD 1 ∧ padBit v .ch3 = v.getLsbD 2 ∧
    padBit v .ch4 = v.getLsbD 3) ∧
  Reg.index .o = 0 ∧ Reg.index .oe = 1 ∧ Reg.index .i = 2 ∧ Reg.index .capen = 3 ∧ Reg.index .cper = 4 ∧
    Reg.index .c1 = 5 ∧ Reg.index .c2 = 6 ∧ Reg.index .c3 = 7 ∧ Reg.index .c4 = 8 ∧
  ∀ (v : Nat) (s : Pads),
    Instr.ofRead .o s = .rdO s ∧ Instr.ofRead .oe s = .rdOe s ∧ Instr.ofRead .i s = .rdI s ∧
    Instr.ofRead .capen s = .rdCapen s ∧ Instr.ofRead .cper s = .rdCper s ∧ Instr.ofRead .c1 s = .rdC1 s ∧
    Instr.ofRead .c2 s = .rdC2 s ∧ Instr.ofRead .c3 s = .rdC3 s ∧ Instr.ofRead .c4 s = .rdC4 s ∧
    Instr.ofWrite .o v s = .wrO v s ∧ Instr.ofWrite .oe v s = .wrOe v s ∧ Instr.ofWrite .i v s = .wrI v s ∧
    Instr.ofWrite .capen v s = .wrCapen v s ∧ Instr.ofWrite .cper v s = .wrCper v s ∧
    Instr.ofWrite .c1 v s = .wrC1 v s ∧ Instr.ofWrite .c2 v s = .wrC2 v s ∧ Instr.ofWrite .c3 v s = .wrC3 v s ∧
    Instr.ofWrite .c4 v s = .wrC4 v s

/-- Words written out from the table of R84 and the decoding table of vector V42, one per family, with any operands beside them. -/
def Obligations.SpecWordsDecodeToTheirOperations : Prop :=
  ∀ (v : Nat) (s : Pads),
    decode ⟨0b1000000, v, s⟩ = .ok .reset ∧ decode ⟨0b1101001, v, s⟩ = .ok .reset ∧
    decode ⟨0b0000000, v, s⟩ = .ok (.idle s) ∧ decode ⟨0b0001100, v, s⟩ = .ok (.idle s) ∧
    decode ⟨0b0100000, v, s⟩ = .ok (.rdO s) ∧ decode ⟨0b0100100, v, s⟩ = .ok (.rdCper s) ∧
    decode ⟨0b0101000, v, s⟩ = .ok (.rdC4 s) ∧ decode ⟨0b0110000, v, s⟩ = .ok (.wrO v s) ∧
    decode ⟨0b0110011, v, s⟩ = .ok (.wrCapen v s) ∧ decode ⟨0b0111000, v, s⟩ = .ok (.wrC4 v s) ∧
    decode ⟨0b0101001, v, s⟩ = .error (.reservedIndex 0x29) ∧ decode ⟨0b0111111, v, s⟩ = .error (.reservedIndex 0x3F)

/-- R82, whole: the decoding order, the decoded record of each case, and the counts over all 128 control words.
The control word is the spec's own decision D17. -/
def Obligations.DecodingFollowsTheOrderAndIsTotal : Prop :=
  (∀ inp : StepInput,
    (inp.ctl.getLsbD 6 = true → decode inp = .ok .reset) ∧
    (inp.ctl.getLsbD 6 = false → inp.ctl.getLsbD 5 = false →
      decode inp = .ok (.idle inp.sense) ∧ tickInput (.idle inp.sense) = some (.idle, inp.sense)) ∧
    (∀ r : Reg, inp.ctl.getLsbD 6 = false → inp.ctl.getLsbD 5 = true → inp.ctl.toNat % 16 = r.index →
      (inp.ctl.getLsbD 4 = false → decode inp = .ok (Instr.ofRead r inp.sense) ∧
        tickInput (Instr.ofRead r inp.sense) = some (.rd r, inp.sense)) ∧
      (inp.ctl.getLsbD 4 = true → decode inp = .ok (Instr.ofWrite r inp.wdata inp.sense) ∧
        tickInput (Instr.ofWrite r inp.wdata inp.sense) = some (.wr r inp.wdata, inp.sense))) ∧
    (inp.ctl.getLsbD 6 = false → inp.ctl.getLsbD 5 = true → 9 ≤ inp.ctl.toNat % 16 →
      decode inp = .error (.reservedIndex inp.ctl))) ∧
  ∀ (v : Nat) (s : Pads),
    let words := (List.range 128).map fun k => decode ⟨BitVec.ofNat 7 k, v, s⟩
    words.countP (fun d => match d with | .ok .reset => true | _ => false) = 64 ∧
    words.countP (fun d => match d with | .ok (.idle _) => true | _ => false) = 32 ∧
    words.countP (fun d => match d with | .ok .reset => false | .ok (.idle _) => false | .ok _ => true | .error _ => false) = 18 ∧
    words.countP (fun d => match d with | .ok _ => false | .error _ => true) = 14

/-- Decode and encode agree on every well-formed operation with every operand, through the flat table word of log 9 (the layout of the
operands in one number is the model's choice; the control words are R84's). -/
def Obligations.EveryWellFormedOperationSurvivesItsTableWord : Prop :=
  ∀ (w : Nat) (i : Instr), i.wellFormed w = true →
    (encode i).toTableWord < 2 ^ (12 + w) ∧
    decodeTableWord (12 + w) (encode i).toTableWord = some i ∧
    decode ((encode i).onEntry w) = .ok i

/-- R81, R83, R88: what the decoder reads at the port of an instance is well-formed there, and its canonical step input decodes to it
again, whatever the ignored bits were. -/
def Obligations.EveryPresentedOperationIsWellFormed : Prop :=
  ∀ (w : Nat) (inp : StepInput) (i : Instr), decode (inp.onEntry w) = .ok i →
    i.wellFormed w = true ∧ decode ((encode i).onEntry w) = .ok i

/-! ### One step -/

/-- R80, R180: the step runs exactly the operation decoded from the next step input, cut to `W` bits on entry (R83), with that input
taken out of the queue; with an empty queue it runs the free input of the environment, as if that input stood in the queue (log 5). -/
def Obligations.StepRunsTheDecodedOperation : Prop :=
  (∀ (s : State) (i : Instr) (inp : StepInput) (rest : List StepInput), s.cfg.ok → s.inputs = inp :: rest →
    decode (inp.onEntry s.cfg.w) = .ok i → step s = exec i { s with inputs := rest }) ∧
  ∀ s : State, s.inputs = [] →
    step s = step { s with inputs := [⟨Config.envCtl s.draws, Config.envWdata s.draws, Config.envSense s.draws⟩] }

/-- R183, whole: one step on the raw control word, for every case of the pseudocode.
The spec marks the rule as its own inference ("[derived: …]"). -/
def Obligations.StepIsTheStepOfTheSpec : Prop :=
  ∀ (s : State) (inp : StepInput) (rest : List StepInput), s.cfg.ok → s.inputs = inp :: rest →
    let s₁ : State := { s with inputs := rest }
    let v := inp.wdata % 2 ^ s.cfg.w
    (inp.ctl.getLsbD 6 = true → ∃ t y, step s = .next t ∧ InResetState t ∧ t.cfg = s.cfg ∧ t.inputs = rest ∧
      t.out = some y ∧
      (∀ n, padBit y.padO n = if padBit s.capen n = true then true else padBit s.o n) ∧
      (∀ n, padBit y.padOe n = if padBit s.capen n = true then decide (ofChannel s.ph n = .charging) else padBit s.oe n)) ∧
    (inp.ctl.getLsbD 6 = false → inp.ctl.getLsbD 5 = false →
      ∃ t, step s = .next t ∧ BlockTick s₁ inp.sense t ∧ HostRegsAre t s.o s.oe s.capen s.cper) ∧
    (inp.ctl.getLsbD 6 = false → inp.ctl.getLsbD 5 = true → 9 ≤ inp.ctl.toNat % 16 →
      step s = .refused (.reservedControlWord inp.ctl)) ∧
    (∀ r : Reg, inp.ctl.getLsbD 6 = false → inp.ctl.getLsbD 5 = true → inp.ctl.toNat % 16 = r.index →
      (inp.ctl.getLsbD 4 = false →
        ∃ t, step s = .next t ∧ BlockTick s₁ inp.sense t ∧ HostRegsAre t s.o s.oe s.capen s.cper ∧
          t.out.map StepOutput.rdata = some (match r with
            | .o => s.o.toNat
            | .oe => s.oe.toNat
            | .i => s.i.toNat
            | .capen => s.capen.toNat
            | .cper => s.cper
            | .c1 => s.c.ch1.toNat
            | .c2 => s.c.ch2.toNat
            | .c3 => s.c.ch3.toNat
            | .c4 => s.c.ch4.toNat)) ∧
      (inp.ctl.getLsbD 4 = true →
        ∃ t, step s = .next t ∧ BlockTick s₁ inp.sense t ∧
          HostRegsAre t
            (if r = .o then BitVec.ofNat 4 v else s.o)
            (if r = .oe then BitVec.ofNat 4 v else s.oe)
            (if r = .capen then BitVec.ofNat 4 v else s.capen)
            (if r = .cper then v else s.cper)))

/-- R87: the decoder returns "invalid" for exactly the 14 reserved words, and the machine refuses the step (so it neither treats the
word as `IDLE`, nor answers a read, nor faults).
The refusal is the spec's own decision D7. -/
def Obligations.ReservedControlWordsAreRefused : Prop :=
  (∀ inp : StepInput, (∃ e, decode inp = .error e) ↔
    (0x29 ≤ inp.ctl.toNat ∧ inp.ctl.toNat ≤ 0x2F) ∨ (0x39 ≤ inp.ctl.toNat ∧ inp.ctl.toNat ≤ 0x3F)) ∧
  ∀ s : State, s.cfg.ok →
    ((0x29 ≤ (fetch s).ctl.toNat ∧ (fetch s).ctl.toNat ≤ 0x2F) ∨ (0x39 ≤ (fetch s).ctl.toNat ∧ (fetch s).ctl.toNat ≤ 0x3F)) →
    step s = .refused (.reservedControlWord (fetch s).ctl)

/-- R185: "For every state and every step input other than a reserved control word the step is defined and yields a next state". -/
def Obligations.StepCompletesOnEveryOtherInput : Prop :=
  ∀ s : State, s.cfg.ok →
    ¬ ((0x29 ≤ (fetch s).ctl.toNat ∧ (fetch s).ctl.toNat ≤ 0x2F) ∨ (0x39 ≤ (fetch s).ctl.toNat ∧ (fetch s).ctl.toNat ≤ 0x3F)) →
    ∃ t, step s = .next t ∧ t.cfg = s.cfg ∧ t.inputs = s.inputs.tail

/-- R9 (D3): an instance with `W < 20` is refused. -/
def Obligations.InstancesBelowTwentyBitsAreRefused : Prop :=
  ∀ s : State, s.cfg.w < 20 → step s = .refused (.widthBelowTwenty s.cfg.w)

/-! ### Reset -/

/-- R210 with the table of R37: power-on and `RESET` both give the reset state, whatever the instance and the state before. `CPER` takes
the instance's `CPER_RESET` (R9, D24), and 524288 where that is the value R9 gives. -/
def Obligations.ResetStateHoldsTheResetValues : Prop :=
  (∀ cfg : Config, InResetState (State.resetOf cfg) ∧ (State.resetOf cfg).cfg = cfg) ∧
  (InResetState State.reset ∧ State.reset.cper = 524288) ∧
  ∀ s : State, ∃ t, exec .reset s = .next t ∧ InResetState t ∧ t.cfg = s.cfg ∧ (s.cfg.cperReset = 524288 → t.cper = 524288)

/-- R184: `RESET` reaches the reset state whatever stands beside the reset bit, its outputs are still those of the pre-tick state, the
tick after it releases all pads, and held reset keeps the state.
That reset is a step input that overrides the rest is the spec's own decision D14. -/
def Obligations.ResetOverridesEverything : Prop :=
  (∀ inp : StepInput, inp.ctl.getLsbD 6 = true → decode inp = .ok .reset) ∧
  ∀ s : State, ∃ t y, exec .reset s = .next t ∧ InResetState t ∧ t.cfg = s.cfg ∧
    (s.cfg.cperReset = 524288 → t.cper = 524288) ∧ t.inputs = s.inputs ∧ t.out = some y ∧
    (∀ n, padBit y.padO n = if padBit s.capen n = true then true else padBit s.o n) ∧
    (∀ n, padBit y.padOe n = if padBit s.capen n = true then decide (ofChannel s.ph n = .charging) else padBit s.oe n) ∧
    (∀ i : Instr, ∃ u z, exec i t = .next u ∧ u.out = some z ∧ z.padO = 0 ∧ z.padOe = 0) ∧
    ∀ k : Nat, ∃ u, runInstrs (List.replicate k .reset) t = .next u ∧ InResetState u

/-- R211: from the reset state the first tick drives nothing, counts nothing and mirrors all four pads.
The spec marks the rule as its own inference ("[derived: …]"). -/
def Obligations.FirstTickAfterResetOnlyMirrorsThePads : Prop :=
  ∀ (s : State) (i : Instr) (op : HostOp) (sense : Pads), InResetState s → tickInput i = some (op, sense) →
    ∃ t y, exec i s = .next t ∧ t.i = sense ∧ t.out = some y ∧ y.padO = 0 ∧ y.padOe = 0 ∧
      t.c = s.c ∧ t.cnt = s.cnt ∧ t.live = s.live ∧ t.ph = s.ph

/-! ### The host's register operations -/

/-- R120: an idle tick is the block's own update and nothing else. -/
def Obligations.IdleRunsOnlyTheBlock : Prop :=
  ∀ (s : State) (sense : Pads),
    RunsHoldingHostRegs (.idle sense) s sense ∧
    (s.capen = 0 → ∃ t, exec (.idle sense) s = .next t ∧ t.c = s.c ∧ t.cnt = s.cnt ∧ t.live = s.live ∧ t.ph = s.ph)

/-- R100: each of the nine reads completes, answers the pre-tick value of its register zero-extended, and changes no state beyond the
block's own update. -/
def Obligations.ReadsAnswerThePreTickRegister : Prop :=
  ∀ (s : State) (sense : Pads),
    RunsReading (.rdO sense) s sense s.o.toNat ∧
    RunsReading (.rdOe sense) s sense s.oe.toNat ∧
    RunsReading (.rdI sense) s sense s.i.toNat ∧
    RunsReading (.rdCapen sense) s sense s.capen.toNat ∧
    RunsReading (.rdCper sense) s sense s.cper ∧
    RunsReading (.rdC1 sense) s sense s.c.ch1.toNat ∧
    RunsReading (.rdC2 sense) s sense s.c.ch2.toNat ∧
    RunsReading (.rdC3 sense) s sense s.c.ch3.toNat ∧
    RunsReading (.rdC4 sense) s sense s.c.ch4.toNat

/-- R101 (with R67): each of the nine writes completes; the four writable registers take the value cut to their width, the five
read-only ones ignore it, and the block's own update runs on the old values. -/
def Obligations.WritesStoreOrAreIgnored : Prop :=
  ∀ (s : State) (v : Nat) (sense : Pads),
    RunsWriting (.wrO v sense) s sense .o v ∧
    RunsWriting (.wrOe v sense) s sense .oe v ∧
    RunsWriting (.wrI v sense) s sense .i v ∧
    RunsWriting (.wrCapen v sense) s sense .capen v ∧
    RunsWriting (.wrCper v sense) s sense .cper v ∧
    RunsWriting (.wrC1 v sense) s sense .c1 v ∧
    RunsWriting (.wrC2 v sense) s sense .c2 v ∧
    RunsWriting (.wrC3 v sense) s sense .c3 v ∧
    RunsWriting (.wrC4 v sense) s sense .c4 v

/-- R64, R83, R88: the bits of a written value above the register's width have no effect at all. The two ticks are compared for the same
free values: that their `I` bits of channels in cap mode and their `rdata` agree too is the model's choice (logs 7 and 8), and no rule
of the spec says it. -/
def Obligations.OverwideWriteDataIsMasked : Prop :=
  ∀ (s : State) (v : Nat) (sense : Pads),
    exec (.wrO v sense) s = exec (.wrO (v % 16) sense) s ∧
    exec (.wrOe v sense) s = exec (.wrOe (v % 16) sense) s ∧
    exec (.wrCapen v sense) s = exec (.wrCapen (v % 16) sense) s ∧
    exec (.wrCper v sense) s = exec (.wrCper (v % 2 ^ s.cfg.w) sense) s

/-- R66: "a write of the value a register already holds changes nothing and restarts nothing". -/
def Obligations.RewritingTheHeldValueIsAnIdleTick : Prop :=
  ∀ (s : State) (sense : Pads), s.cper < 2 ^ s.cfg.w →
    RunsHoldingHostRegs (.wrO s.o.toNat sense) s sense ∧
    RunsHoldingHostRegs (.wrOe s.oe.toNat sense) s sense ∧
    RunsHoldingHostRegs (.wrCapen s.capen.toNat sense) s sense ∧
    RunsHoldingHostRegs (.wrCper s.cper sense) s sense

/-- R69: the block's logic on the tick of a write uses the old value; the next tick's logic, pads and reads use the new one. -/
def Obligations.WritesAreUsedFromTheNextTick : Prop :=
  ∀ (s : State) (v : Nat) (a b : Pads),
    (∃ t, exec (.wrO v a) s = .next t ∧ BlockTick s a t ∧ RunsReading (.rdO b) t b (v % 16) ∧
      ∀ i, ∃ u y, exec i t = .next u ∧ u.out = some y ∧
        ∀ n, padBit s.capen n = false → padBit y.padO n = v.testBit (padIndex n)) ∧
    (∃ t, exec (.wrOe v a) s = .next t ∧ BlockTick s a t ∧ RunsReading (.rdOe b) t b (v % 16) ∧
      ∀ i, ∃ u y, exec i t = .next u ∧ u.out = some y ∧
        ∀ n, padBit s.capen n = false → padBit y.padOe n = v.testBit (padIndex n)) ∧
    (∃ t, exec (.wrCapen v a) s = .next t ∧ BlockTick s a t ∧ RunsReading (.rdCapen b) t b (v % 16) ∧
      (∀ i, ∃ u y, exec i t = .next u ∧ u.out = some y ∧
        ∀ n, padBit y.padO n = (v.testBit (padIndex n) || padBit s.o n) ∧
          padBit y.padOe n = if v.testBit (padIndex n) then decide (ofChannel t.ph n = .charging) else padBit s.oe n) ∧
      t.capen = BitVec.ofNat 4 v ∧
      ∀ i op c, tickInput i = some (op, c) → ∃ u, exec i t = .next u ∧ BlockTick t c u) ∧
    (∃ t, exec (.wrCper v a) s = .next t ∧ BlockTick s a t ∧ RunsReading (.rdCper b) t b (v % 2 ^ s.cfg.w) ∧
      ∀ i op c, tickInput i = some (op, c) → ∃ u, exec i t = .next u ∧ BlockTick t c u ∧
        (t.latchTick → u.cnt = v % 2 ^ s.cfg.w))

/-- R70: a read on a latch tick answers the old count and a read on the next tick the new one; a read of `I` answers the mirror of the
tick before. -/
def Obligations.ReadsOnALatchTickAnswerTheOldCount : Prop :=
  ∀ (s : State) (a b : Pads), s.latchTick →
    (∃ t, exec (.rdC1 a) s = .next t ∧ t.out.map StepOutput.rdata = some s.c.ch1.toNat ∧
      RunsReading (.rdC1 b) t b s.live.ch1.toNat) ∧
    (∃ t, exec (.rdC2 a) s = .next t ∧ t.out.map StepOutput.rdata = some s.c.ch2.toNat ∧
      RunsReading (.rdC2 b) t b s.live.ch2.toNat) ∧
    (∃ t, exec (.rdC3 a) s = .next t ∧ t.out.map StepOutput.rdata = some s.c.ch3.toNat ∧
      RunsReading (.rdC3 b) t b s.live.ch3.toNat) ∧
    (∃ t, exec (.rdC4 a) s = .next t ∧ t.out.map StepOutput.rdata = some s.c.ch4.toNat ∧
      RunsReading (.rdC4 b) t b s.live.ch4.toNat) ∧
    ∃ t, exec (.rdI a) s = .next t ∧ t.out.map StepOutput.rdata = some s.i.toNat

/-- R188: what a tick cannot do, for every operation but `RESET`.
The spec marks the rule as its own inference ("[derived: …]"). -/
def Obligations.WhatATickCannotChange : Prop :=
  ∀ (s : State) (i : Instr) (op : HostOp) (sense : Pads), tickInput i = some (op, sense) →
    ∃ t, exec i s = .next t ∧
      (t.o ≠ s.o → ∃ v, i = .wrO v sense) ∧
      (t.oe ≠ s.oe → ∃ v, i = .wrOe v sense) ∧
      (t.capen ≠ s.capen → ∃ v, i = .wrCapen v sense) ∧
      (t.cper ≠ s.cper → ∃ v, i = .wrCper v sense) ∧
      (∀ n, ofChannel t.c n ≠ ofChannel s.c n → s.latchTick) ∧
      (s.capen = 0 → t.cnt = s.cnt ∧ t.c = s.c ∧ t.live = s.live) ∧
      (∀ n, padBit s.capen n = false → ofChannel t.ph n = ofChannel s.ph n ∧ ¬ s.event sense n) ∧
      (s.capen = 0 → (∀ r v, op ≠ .wr r v) →
        t.o = s.o ∧ t.oe = s.oe ∧ t.capen = s.capen ∧ t.cper = s.cper ∧ t.c = s.c ∧ t.cnt = s.cnt ∧ t.live = s.live ∧
          t.ph = s.ph)

/-! ### The scheduler -/

/-- R131: the countdown of an enabled tick with `cnt ≠ 0`, for every operation but `RESET`. -/
def Obligations.NonzeroCountdownDecrements : Prop :=
  ∀ (s : State) (i : Instr) (op : HostOp) (sense : Pads), tickInput i = some (op, sense) → s.capen ≠ 0 → s.cnt ≠ 0 →
    ∃ t, exec i s = .next t ∧ t.cnt = s.cnt - 1 ∧ ¬ s.latchTick ∧ t.c = s.c ∧
      ∀ n, ¬ s.event sense n → ofChannel t.live n = ofChannel s.live n

/-- R132, R133, R134: the latch event, for every operation but `RESET`: reload from the pre-tick `CPER`, copy and clear all four
channels, an event of the tick lost but its phase flip kept; on any other tick `C[n]` holds. -/
def Obligations.LatchReloadsCopiesAndClears : Prop :=
  ∀ (s : State) (i : Instr) (op : HostOp) (sense : Pads), tickInput i = some (op, sense) →
    ∃ t, exec i s = .next t ∧
      (s.capen ≠ 0 → s.cnt = 0 → t.cnt = s.cper ∧ ∀ n,
        ofChannel t.c n = ofChannel s.live n ∧ ofChannel t.live n = 0 ∧
          (s.event sense n → ofChannel t.ph n = .charging)) ∧
      (¬ (s.capen ≠ 0 ∧ s.cnt = 0) → ∀ n, ofChannel t.c n = ofChannel s.c n)

/-- R135, R245: while no channel is enabled no tick latches, and the countdown, the live counters and the latched counts hold over any
number of ticks (short of a `RESET`). -/
def Obligations.DisabledBlockFreezesItsCounts : Prop :=
  ∀ (s : State) (is : List Instr), (∀ i ∈ is, i ≠ .reset) → AlongRun (fun u => u.capen = 0) is s →
    ∃ t, runInstrs is s = .next t ∧ t.cnt = s.cnt ∧ t.c = s.c ∧ t.live = s.live ∧ t.ph = s.ph ∧
      AlongRun (fun u => ¬ u.latchTick) is s

/-- R242 (R136): while some channel is enabled and `CPER` does not change, a latch tick is followed by exactly `CPER` ticks that are not
latch ticks and then by a latch tick; while `CAPEN = 0` no tick is a latch tick. -/
def Obligations.LatchTicksAreCperPlusOneApart : Prop :=
  (∀ (s : State) (is : List Instr), s.latchTick → AlongRun (fun u => u.capen ≠ 0 ∧ u.cper = s.cper) is s →
    1 ≤ is.length → is.length ≤ s.cper + 1 →
    ∃ t, runInstrs is s = .next t ∧ (t.latchTick ↔ is.length = s.cper + 1) ∧ t.cnt + is.length = s.cper + 1) ∧
  ∀ s : State, s.capen = 0 → ¬ s.latchTick

/-- R137, R246: once `cnt = 0` and `CPER = 0`, every enabled tick is a latch tick, the live counters are 0 from the first such tick and
`C1` to `C4` from the second.
The spec marks the rule as its own inference ("[derived: …]"). -/
def Obligations.ZeroPeriodLatchesEveryTick : Prop :=
  ∀ (s : State) (is : List Instr), s.cnt = 0 → AlongRun (fun u => u.capen ≠ 0 ∧ u.cper = 0) is s →
    AlongRun State.latchTick is s ∧
    ∃ t, runInstrs is s = .next t ∧
      (1 ≤ is.length → ∀ n, ofChannel t.live n = 0) ∧ (2 ≤ is.length → ∀ n, ofChannel t.c n = 0)

/-- R138: a rewritten `CPER` does not touch the countdown in progress (on a latch tick the reload is from the old value), and is loaded
by the first latch tick after the write.
The spec marks the rule as its own inference ("[derived: …]"). -/
def Obligations.RewrittenPeriodIsLoadedByTheNextLatch : Prop :=
  ∀ (s : State) (v : Nat) (sense : Pads), s.capen ≠ 0 →
    ∃ t, exec (.wrCper v sense) s = .next t ∧ t.cper = v % 2 ^ s.cfg.w ∧
      t.cnt = (if s.cnt = 0 then s.cper else s.cnt - 1) ∧
      ∀ is : List Instr, AlongRun (fun u => u.capen ≠ 0 ∧ u.cper = t.cper) is t →
        (is.length ≤ t.cnt → ∃ u, runInstrs is t = .next u ∧ u.cnt + is.length = t.cnt) ∧
        (is.length = t.cnt + 1 → ∃ u, runInstrs is t = .next u ∧ u.cnt = v % 2 ^ s.cfg.w)

/-- R139: from the reset state, the tick of the first `WR.CAPEN` of a nonzero value does not latch; the tick after it does, with zeros,
and loads the instance's `CPER_RESET` (524288 in the value R9 gives).
The spec marks the rule as its own inference ("[derived: …]"). -/
def Obligations.FirstEnabledTickAfterResetLatchesZeros : Prop :=
  ∀ (s : State) (v : Nat) (a b : Pads) (i : Instr) (op : HostOp), InResetState s → v % 16 ≠ 0 → tickInput i = some (op, b) →
    ∃ t u, exec (.wrCapen v a) s = .next t ∧ exec i t = .next u ∧ ¬ s.latchTick ∧ t.latchTick ∧
      u.cnt = s.cfg.cperReset.toNat ∧ ∀ n, ofChannel u.c n = 0 ∧ ofChannel u.live n = 0

/-- R213: the boot sequence. From the reset state, `WR.CPER p` then `WR.CAPEN v` on tick t: no tick up to t latches, tick t+1 is the
first latch tick and latches zeros, none of the `CPER` ticks after it latches, and tick t+CPER+2 is the second latch tick, which latches
the counts of the window between them.
The spec marks the rule as its own inference ("[derived: …]"). -/
def Obligations.BootSequenceReachesTheSecondLatch : Prop :=
  ∀ (s : State) (p v : Nat) (a b c : Pads) (i : Instr) (op : HostOp), InResetState s → v % 16 ≠ 0 →
    tickInput i = some (op, c) →
    ∃ r t, exec (.wrCper p a) s = .next r ∧ exec (.wrCapen v b) r = .next t ∧
      ¬ s.latchTick ∧ ¬ r.latchTick ∧ t.latchTick ∧
      (∃ w, exec i t = .next w ∧ w.cnt = p % 2 ^ s.cfg.w ∧ ∀ n, ofChannel w.c n = 0) ∧
      ∀ is : List Instr, 1 ≤ is.length → is.length ≤ p % 2 ^ s.cfg.w + 1 →
        AlongRun (fun u => u.capen ≠ 0 ∧ u.cper = p % 2 ^ s.cfg.w) is t →
        ∃ u, runInstrs is t = .next u ∧ (u.latchTick ↔ is.length = p % 2 ^ s.cfg.w + 1) ∧
          (is.length = p % 2 ^ s.cfg.w + 1 →
            ∃ x, exec i u = .next x ∧ ∀ n, ofChannel x.c n = ofChannel u.live n)

/-! ### The channels -/

/-- R161: the complete next-state table of a channel, with its pad command, for every operation but `RESET`. -/
def Obligations.ChannelNextStateTable : Prop :=
  ∀ (s : State) (i : Instr) (op : HostOp) (sense : Pads) (n : Channel), tickInput i = some (op, sense) →
    ∃ t y, exec i s = .next t ∧ t.out = some y ∧
      (padBit s.capen n = false → ofChannel t.ph n = ofChannel s.ph n ∧ ¬ s.event sense n ∧
        padBit y.padO n = padBit s.o n ∧ padBit y.padOe n = padBit s.oe n) ∧
      (padBit s.capen n = true → ofChannel s.ph n = .charging → ofChannel t.ph n = .sensing ∧ ¬ s.event sense n ∧
        padBit y.padO n = true ∧ padBit y.padOe n = true) ∧
      (padBit s.capen n = true → ofChannel s.ph n = .sensing → padBit sense n = true →
        ofChannel t.ph n = .sensing ∧ ¬ s.event sense n ∧ padBit y.padO n = true ∧ padBit y.padOe n = false) ∧
      (padBit s.capen n = true → ofChannel s.ph n = .sensing → padBit sense n = false →
        ofChannel t.ph n = .charging ∧ s.event sense n ∧ padBit y.padO n = true ∧ padBit y.padOe n = false)

/-- R155, R157, with channel 2's source as R156 gives it for both values of `CH2_SRC`. -/
def Obligations.LiveCounterCountsEvents : Prop :=
  ∀ (s : State) (i : Instr) (op : HostOp) (sense : Pads), tickInput i = some (op, sense) →
    ∃ t, exec i s = .next t ∧
      (s.latchTick → ∀ n, ofChannel t.live n = 0) ∧
      (¬ s.latchTick → ∀ n, ¬ s.event sense n → ofChannel t.live n = ofChannel s.live n) ∧
      (¬ s.latchTick → ∀ n, n ≠ .ch2 → s.event sense n →
        (ofChannel t.live n).toNat = ((ofChannel s.live n).toNat + 1) % 256) ∧
      (¬ s.latchTick → s.event sense .ch2 → s.cfg.ch2Src = .asBuilt →
        t.live.ch2.toNat = (s.live.ch1.toNat + 1) % 256) ∧
      (¬ s.latchTick → s.event sense .ch2 → s.cfg.ch2Src = .corrected →
        t.live.ch2.toNat = (s.live.ch2.toNat + 1) % 256)

/-- R36 (5), R162: a set phase flag is cleared by the next enabled tick, so two events of one channel are at least two ticks apart.
The spec marks the rule as its own inference ("[derived: …]"). -/
def Obligations.EventsOfAChannelAreTwoTicksApart : Prop :=
  ∀ (s : State) (i : Instr) (op : HostOp) (sense : Pads) (n : Channel), tickInput i = some (op, sense) →
    ∃ t, exec i s = .next t ∧
      (padBit s.capen n = true → ofChannel s.ph n = .charging → ofChannel t.ph n = .sensing) ∧
      (s.event sense n → ∀ later : Pads, ¬ t.event later n)

/-- R162, R220: over any run of k ticks that starts with `live[n] = 0` (resets, disables and latches allowed), the live counter of a
channel that counts its own events is at most `ceil(k / 2)`.
The spec marks the rule as its own inference ("[derived: …]"). -/
def Obligations.AtMostOneCountEveryTwoTicks : Prop :=
  ∀ (s : State) (is : List Instr) (n : Channel), (n ≠ .ch2 ∨ s.cfg.ch2Src = .corrected) → ofChannel s.live n = 0 →
    ∃ t, runInstrs is s = .next t ∧ 2 * (ofChannel t.live n).toNat ≤ is.length + 1

/-- R156, R223: as built, with channel 1 never enabled and its live count 0, channel 2's counts never exceed 1. -/
def Obligations.ChannelTwoAsBuiltAloneCountsAtMostOne : Prop :=
  ∀ (s : State) (is : List Instr), s.cfg.ch2Src = .asBuilt → s.live.ch1 = 0 → s.live.ch2.toNat ≤ 1 → s.c.ch2.toNat ≤ 1 →
    AlongRun (fun u => padBit u.capen .ch1 = false) is s →
    ∃ t, runInstrs is s = .next t ∧ t.live.ch1 = 0 ∧ t.live.ch2.toNat ≤ 1 ∧ t.c.ch2.toNat ≤ 1

/-- R163: a channel's next phase depends on its own enable, phase and sensed level only; its next live count on those, on `latch`, and
on its increment's source. -/
def Obligations.ChannelsAreIndependent : Prop :=
  ∀ (s s' : State) (i i' : Instr) (op op' : HostOp) (a a' : Pads) (n : Channel),
    tickInput i = some (op, a) → tickInput i' = some (op', a') →
    padBit s.capen n = padBit s'.capen n → ofChannel s.ph n = ofChannel s'.ph n → padBit a n = padBit a' n →
    ∃ t t', exec i s = .next t ∧ exec i' s' = .next t' ∧ ofChannel t.ph n = ofChannel t'.ph n ∧
      ((s.latchTick ↔ s'.latchTick) → ofChannel s.live n = ofChannel s'.live n →
        (n ≠ .ch2 ∨ (s.cfg.ch2Src = .corrected ∧ s'.cfg.ch2Src = .corrected) ∨
          (s.cfg.ch2Src = s'.cfg.ch2Src ∧ s.live.ch1 = s'.live.ch1)) →
        ofChannel t.live n = ofChannel t'.live n)

/-! ### The pads -/

/-- R170, R171: the pad outputs of every tick, `RESET` included, from the pre-tick state. -/
def Obligations.PadOutputsFollowTheMode : Prop :=
  ∀ (s : State) (i : Instr) (n : Channel), ∃ t y, exec i s = .next t ∧ t.out = some y ∧
    (padBit s.capen n = true → padBit y.padO n = true ∧ (padBit y.padOe n = true ↔ ofChannel s.ph n = .charging)) ∧
    (padBit s.capen n = false → padBit y.padO n = padBit s.o n ∧ padBit y.padOe n = padBit s.oe n)

/-- R172: in GPIO mode `I[n]` takes the sensed level of the tick, and a read of `I` on the next tick answers it. -/
def Obligations.InputMirrorFollowsThePad : Prop :=
  ∀ (s : State) (i : Instr) (op : HostOp) (sense later : Pads) (n : Channel), tickInput i = some (op, sense) →
    padBit s.capen n = false →
    ∃ t u y, exec i s = .next t ∧ padBit t.i n = padBit sense n ∧
      exec (.rdI later) t = .next u ∧ u.out = some y ∧ y.rdata.testBit (padIndex n) = padBit sense n

/-- R247 (R175): the round trip. With all channels in GPIO mode and all drivers enabled, `WR.O v`, then any tick on whose pads the sensed
level mirrors what is driven, then `RD.I`: the low four bits of `v` come back. -/
def Obligations.WrittenOutputComesBackAsInput : Prop :=
  ∀ (s : State) (v : Nat) (a b c : Pads) (i : Instr) (op : HostOp), s.capen = 0 → s.oe = 0b1111 →
    tickInput i = some (op, b) →
    ∃ t u y, exec (.wrO v a) s = .next t ∧ exec i t = .next u ∧ u.out = some y ∧
      (∀ n, padBit y.padOe n = true) ∧
      ((∀ n, padBit y.padOe n = true → padBit b n = padBit y.padO n) →
        ∃ x, exec (.rdI c) u = .next x ∧ x.out.map StepOutput.rdata = some (v % 16))

/-! ### Whole-machine properties -/

/-- R187 (R173): two runs that differ in the unspecified bits (and in the model's index of free values and record of outputs) agree on
every element but the `I` bits of channels in cap mode, on the pads, and on every read but that of `I`. -/
def Obligations.UnspecifiedInputBitsInfluenceNothingElse : Prop :=
  ∀ (s : State) (i : Instr) (bits : Pads) (d : Nat) (y : Option StepOutput),
    ∃ t t', exec i s = .next t ∧ exec i { s with i := bits, draws := d, out := y } = .next t' ∧
      t.o = t'.o ∧ t.oe = t'.oe ∧ t.capen = t'.capen ∧ t.cper = t'.cper ∧ t.c = t'.c ∧ t.cnt = t'.cnt ∧
      t.live = t'.live ∧ t.ph = t'.ph ∧
      (∀ n, padBit s.capen n = false → padBit t.i n = padBit t'.i n) ∧
      t.out.map StepOutput.padO = t'.out.map StepOutput.padO ∧ t.out.map StepOutput.padOe = t'.out.map StepOutput.padOe ∧
      (∀ r sense, tickInput i = some (.rd r, sense) → r ≠ .i →
        t.out.map StepOutput.rdata = t'.out.map StepOutput.rdata)

/-- R26, R28, R36 (6), R140, R81: every step keeps the state legal (`W ≥ 20`; `CPER`, `cnt` and the read port within `W` bits) and does
not change the instance's parameters. -/
def Obligations.EveryStepKeepsTheStateLegal : Prop :=
  ∀ s t : State, s.legal → step s = .next t → t.legal ∧ t.cfg = s.cfg

/-- The reset state of every instance inside the spec is legal (R9: `W ≥ 20` makes the reset value of `CPER` fit). -/
def Obligations.ResetStateIsLegal : Prop :=
  State.reset.legal ∧ ∀ cfg : Config, cfg.ok → (State.resetOf cfg).legal

/-- R244: scenario S1 of the source, from the start state the spec gives it, for every instance: events on ticks 1 and 3, latch on
tick 4 with count 2. -/
def Obligations.ScenarioOneOfTheSource : Prop :=
  ∀ cfg : Config,
    let s : State := { State.resetOf cfg with cper := 4, cnt := 4, capen := 0b0001 }
    let sense : List Pads := [0b1111, 0b1110, 0b1111, 0b1110, 0b1111]
    (∃ t, runInstrs ((sense.take 1).map .idle) s = .next t ∧ t.live = ⟨0, 0, 0, 0⟩ ∧ t.c = ⟨0, 0, 0, 0⟩) ∧
    (∃ t, runInstrs ((sense.take 2).map .idle) s = .next t ∧ t.live = ⟨1, 0, 0, 0⟩ ∧ t.c = ⟨0, 0, 0, 0⟩) ∧
    (∃ t, runInstrs ((sense.take 3).map .idle) s = .next t ∧ t.live = ⟨1, 0, 0, 0⟩ ∧ t.c = ⟨0, 0, 0, 0⟩) ∧
    (∃ t, runInstrs ((sense.take 4).map .idle) s = .next t ∧ t.live = ⟨2, 0, 0, 0⟩ ∧ t.c = ⟨0, 0, 0, 0⟩ ∧ t.latchTick) ∧
    (∃ t, runInstrs (sense.map .idle) s = .next t ∧ t.live = ⟨0, 0, 0, 0⟩ ∧ t.c = ⟨2, 0, 0, 0⟩ ∧ t.cnt = 4)
end

