-- ==== Sys2Proof/Laws/Bits.lean ====
section
/-!
SUPPORT. Laws of the operand forms: a 4-bit word is determined by its channel bits, and building a word or a tuple channel by channel
is undone by reading it channel by channel.
-/
namespace Sys2Proof.Machine

@[simp] theorem padBit_padsOf (f : Channel → Bool) (n : Channel) : padBit (padsOf f) n = f n := by
  have bits : ∀ a b c d : Bool,
      let v : BitVec 4 := BitVec.ofBool d ++ BitVec.ofBool c ++ BitVec.ofBool b ++ BitVec.ofBool a
      v.getLsbD 0 = a ∧ v.getLsbD 1 = b ∧ v.getLsbD 2 = c ∧ v.getLsbD 3 = d := by decide
  have h := bits (f .ch1) (f .ch2) (f .ch3) (f .ch4)
  cases n
  · exact h.1
  · exact h.2.1
  · exact h.2.2.1
  · exact h.2.2.2

@[simp] theorem ofChannel_perChannel {α : Type} (f : Channel → α) (n : Channel) : ofChannel (perChannel f) n = f n := by
  cases n <;> rfl

@[simp] theorem padBit_zero (n : Channel) : padBit 0 n = false := by cases n <;> rfl

/-- The same, in the form `simp` brings a zero word to. -/
@[simp] theorem padBit_zero_ofNat (n : Channel) : padBit (BitVec.ofNat Config.nch 0) n = false := by cases n <;> rfl

theorem pads_ext {u v : Pads} (h : ∀ n, padBit u n = padBit v n) : u = v := by
  have key : ∀ u v : BitVec 4, u.getLsbD 0 = v.getLsbD 0 → u.getLsbD 1 = v.getLsbD 1 → u.getLsbD 2 = v.getLsbD 2 →
      u.getLsbD 3 = v.getLsbD 3 → u = v := by decide
  exact key u v (h .ch1) (h .ch2) (h .ch3) (h .ch4)

theorem perChannel_ext {α : Type} {a b : PerChannel α} (h : ∀ n, ofChannel a n = ofChannel b n) : a = b := by
  cases a; cases b
  have h1 := h .ch1; have h2 := h .ch2; have h3 := h .ch3; have h4 := h .ch4
  simp only [ofChannel] at h1 h2 h3 h4
  subst h1; subst h2; subst h3; subst h4; rfl

/-- Some channel of a nonzero word has its bit set. -/
theorem exists_padBit_of_ne_zero {v : Pads} (h : v ≠ 0) : ∃ n, padBit v n = true := by
  by_contra hn
  refine h (pads_ext fun n => ?_)
  rw [padBit_zero]
  exact Bool.eq_false_iff.mpr fun hb => hn ⟨n, hb⟩

theorem padBit_truncPads (v : Nat) (n : Channel) : padBit (truncPads v) n = v.testBit (padIndex n) := by
  cases n <;> simp only [padBit, truncPads, padIndex, BitVec.getLsbD_ofNat] <;> rfl

@[simp] theorem toNat_truncPads (v : Nat) : (truncPads v).toNat = v % 16 := by
  simp [truncPads, BitVec.toNat_ofNat, Config.nch]

theorem truncPads_eq_zero_iff (v : Nat) : truncPads v = 0 ↔ v % 16 = 0 := by
  constructor
  · intro h
    rw [← toNat_truncPads, h]; rfl
  · intro h
    apply BitVec.eq_of_toNat_eq
    rw [toNat_truncPads, h]; rfl

theorem truncW_lt (cfg : Config) (v : Nat) : truncW cfg v < 2 ^ cfg.w := Nat.mod_lt _ (Nat.two_pow_pos _)

@[simp] theorem phaseBit_sensing : phaseBit .sensing = false := rfl
@[simp] theorem phaseBit_charging : phaseBit .charging = true := rfl

theorem phaseBit_eq_decide (p : Phase) : phaseBit p = decide (p = .charging) := by cases p <;> rfl

end Sys2Proof.Machine
end

