-- ==== Sys2Proof/Laws/Decode.lean ====
section
/-!
SUPPORT. Laws of the encoding's parts: register indices, the fields of a control word, and the flat layout of a step input.
-/
namespace Sys2Proof

@[simp] theorem Reg.ofIndex_index (r : Reg) : Reg.ofIndex r.index = some r := by cases r <;> rfl

theorem Reg.ofIndex_eq_none_iff (k : Nat) : Reg.ofIndex k = none ↔ 9 ≤ k := by
  constructor
  · intro h
    by_contra hk
    have : ∀ k < 9, Reg.ofIndex k ≠ none := by decide
    exact this k (by omega) h
  · intro h
    obtain ⟨m, rfl⟩ := Nat.exists_eq_add_of_le' h
    rfl

theorem ctlIdx_lt (c : Ctl) : ctlIdx c < 16 := Nat.mod_lt _ (by omega)

theorem decode_of_rst {inp : StepInput} (h : ctlRst inp.ctl = true) : decode inp = .ok .reset := by simp [decode, h]

theorem decode_of_idle {inp : StepInput} (hr : ctlRst inp.ctl = false) (hv : ctlV inp.ctl = false) :
    decode inp = .ok (.idle inp.sense) := by simp [decode, hr, hv]

theorem decode_of_access {inp : StepInput} {r : Reg} (hr : ctlRst inp.ctl = false) (hv : ctlV inp.ctl = true)
    (hi : Reg.ofIndex (ctlIdx inp.ctl) = some r) :
    decode inp = .ok (if ctlWe inp.ctl then Instr.ofWrite r inp.wdata inp.sense else Instr.ofRead r inp.sense) := by
  simp only [decode, hr, hv, hi]
  cases ctlWe inp.ctl <;> rfl

theorem decode_of_reserved {inp : StepInput} (hr : ctlRst inp.ctl = false) (hv : ctlV inp.ctl = true)
    (hi : Reg.ofIndex (ctlIdx inp.ctl) = none) : decode inp = .error (.reservedIndex inp.ctl) := by
  simp [decode, hr, hv, hi]

@[simp] theorem onEntry_ctl (w : Nat) (inp : StepInput) : (inp.onEntry w).ctl = inp.ctl := rfl
@[simp] theorem onEntry_sense (w : Nat) (inp : StepInput) : (inp.onEntry w).sense = inp.sense := rfl
@[simp] theorem onEntry_wdata (w : Nat) (inp : StepInput) : (inp.onEntry w).wdata = inp.wdata % 2 ^ w := rfl

theorem onEntry_of_lt {w : Nat} {inp : StepInput} (h : inp.wdata < 2 ^ w) : inp.onEntry w = inp := by
  cases inp; simp_all [StepInput.onEntry, Nat.mod_eq_of_lt]

/-- The flat layout loses nothing (assumption log 9). -/
theorem ofTableWord_toTableWord {nbits : Nat} (inp : StepInput) (h : inp.toTableWord < 2 ^ nbits) :
    StepInput.ofTableWord nbits inp.toTableWord = inp := by
  obtain ⟨c, v, s⟩ := inp
  have hc := c.isLt
  have hs : s.toNat < 16 := s.isLt
  have hb : StepInput.toTableWord ⟨c, v, s⟩ % 2 ^ nbits = c.toNat + 256 * s.toNat + 4096 * v := Nat.mod_eq_of_lt h
  simp only [StepInput.ofTableWord, hb]
  congr 1
  · apply BitVec.eq_of_toNat_eq; rw [BitVec.toNat_ofNat]; omega
  · omega
  · apply BitVec.eq_of_toNat_eq; rw [BitVec.toNat_ofNat]; unfold Config.nch; omega

end Sys2Proof
end

