-- ==== Sys2Proof/Laws/State.lean ====
section
/-!
SUPPORT. One lemma per field per update of State, each true by `rfl` (for a write, by cases on the register), so that no later proof
unfolds a record update.
-/
namespace Sys2Proof.Machine

/-! ### The block's own update -/

@[simp] theorem blockTick_o (s : State) (sense : Pads) (rdata : Nat) :
    (blockTick s sense rdata).o = s.o := rfl
@[simp] theorem blockTick_oe (s : State) (sense : Pads) (rdata : Nat) :
    (blockTick s sense rdata).oe = s.oe := rfl
@[simp] theorem blockTick_i (s : State) (sense : Pads) (rdata : Nat) :
    (blockTick s sense rdata).i = nextI s sense := rfl
@[simp] theorem blockTick_capen (s : State) (sense : Pads) (rdata : Nat) :
    (blockTick s sense rdata).capen = s.capen := rfl
@[simp] theorem blockTick_cper (s : State) (sense : Pads) (rdata : Nat) :
    (blockTick s sense rdata).cper = s.cper := rfl
@[simp] theorem blockTick_c (s : State) (sense : Pads) (rdata : Nat) :
    (blockTick s sense rdata).c = perChannel (nextC s) := rfl
@[simp] theorem blockTick_cnt (s : State) (sense : Pads) (rdata : Nat) :
    (blockTick s sense rdata).cnt = nextCnt s := rfl
@[simp] theorem blockTick_live (s : State) (sense : Pads) (rdata : Nat) :
    (blockTick s sense rdata).live = perChannel (nextLive s sense) := rfl
@[simp] theorem blockTick_ph (s : State) (sense : Pads) (rdata : Nat) :
    (blockTick s sense rdata).ph = perChannel (nextPh s sense) := rfl
@[simp] theorem blockTick_cfg (s : State) (sense : Pads) (rdata : Nat) :
    (blockTick s sense rdata).cfg = s.cfg := rfl
@[simp] theorem blockTick_inputs (s : State) (sense : Pads) (rdata : Nat) :
    (blockTick s sense rdata).inputs = s.inputs := rfl
@[simp] theorem blockTick_draws (s : State) (sense : Pads) (rdata : Nat) :
    (blockTick s sense rdata).draws = s.draws + 1 := rfl
@[simp] theorem blockTick_out (s : State) (sense : Pads) (rdata : Nat) :
    (blockTick s sense rdata).out = some (outputs s rdata) := rfl

/-! ### A host write -/

@[simp] theorem regWrite_o (r : Reg) (v : Nat) (s : State) :
    (regWrite r v s).o = if r = .o then truncPads v else s.o := by cases r <;> rfl
@[simp] theorem regWrite_oe (r : Reg) (v : Nat) (s : State) :
    (regWrite r v s).oe = if r = .oe then truncPads v else s.oe := by cases r <;> rfl
@[simp] theorem regWrite_i (r : Reg) (v : Nat) (s : State) : (regWrite r v s).i = s.i := by cases r <;> rfl
@[simp] theorem regWrite_capen (r : Reg) (v : Nat) (s : State) :
    (regWrite r v s).capen = if r = .capen then truncPads v else s.capen := by cases r <;> rfl
@[simp] theorem regWrite_cper (r : Reg) (v : Nat) (s : State) :
    (regWrite r v s).cper = if r = .cper then truncW s.cfg v else s.cper := by cases r <;> rfl
@[simp] theorem regWrite_c (r : Reg) (v : Nat) (s : State) : (regWrite r v s).c = s.c := by cases r <;> rfl
@[simp] theorem regWrite_cnt (r : Reg) (v : Nat) (s : State) : (regWrite r v s).cnt = s.cnt := by cases r <;> rfl
@[simp] theorem regWrite_live (r : Reg) (v : Nat) (s : State) : (regWrite r v s).live = s.live := by cases r <;> rfl
@[simp] theorem regWrite_ph (r : Reg) (v : Nat) (s : State) : (regWrite r v s).ph = s.ph := by cases r <;> rfl
@[simp] theorem regWrite_cfg (r : Reg) (v : Nat) (s : State) : (regWrite r v s).cfg = s.cfg := by cases r <;> rfl
@[simp] theorem regWrite_inputs (r : Reg) (v : Nat) (s : State) : (regWrite r v s).inputs = s.inputs := by cases r <;> rfl
@[simp] theorem regWrite_draws (r : Reg) (v : Nat) (s : State) : (regWrite r v s).draws = s.draws := by cases r <;> rfl
@[simp] theorem regWrite_out (r : Reg) (v : Nat) (s : State) : (regWrite r v s).out = s.out := by cases r <;> rfl

/-! ### The reset tick -/

@[simp] theorem resetTick_o (s : State) :
    (resetTick s).o = 0 := rfl
@[simp] theorem resetTick_oe (s : State) :
    (resetTick s).oe = 0 := rfl
@[simp] theorem resetTick_i (s : State) :
    (resetTick s).i = 0 := rfl
@[simp] theorem resetTick_capen (s : State) :
    (resetTick s).capen = 0 := rfl
@[simp] theorem resetTick_cper (s : State) :
    (resetTick s).cper = s.cfg.cperReset.toNat := rfl
@[simp] theorem resetTick_c (s : State) :
    (resetTick s).c = { ch1 := 0, ch2 := 0, ch3 := 0, ch4 := 0 } := rfl
@[simp] theorem resetTick_cnt (s : State) :
    (resetTick s).cnt = 0 := rfl
@[simp] theorem resetTick_live (s : State) :
    (resetTick s).live = { ch1 := 0, ch2 := 0, ch3 := 0, ch4 := 0 } := rfl
@[simp] theorem resetTick_ph (s : State) :
    (resetTick s).ph = { ch1 := .sensing, ch2 := .sensing, ch3 := .sensing, ch4 := .sensing } := rfl
@[simp] theorem resetTick_cfg (s : State) :
    (resetTick s).cfg = s.cfg := rfl
@[simp] theorem resetTick_inputs (s : State) :
    (resetTick s).inputs = s.inputs := rfl
@[simp] theorem resetTick_draws (s : State) :
    (resetTick s).draws = s.draws + 1 := rfl
@[simp] theorem resetTick_out (s : State) :
    (resetTick s).out = some (outputs s (freeRdata s)) := rfl

/-! ### Taking a step input from the queue, and placing one -/

@[simp] theorem consume_o (s : State) : (consume s).o = s.o := rfl
@[simp] theorem consume_oe (s : State) : (consume s).oe = s.oe := rfl
@[simp] theorem consume_i (s : State) : (consume s).i = s.i := rfl
@[simp] theorem consume_capen (s : State) : (consume s).capen = s.capen := rfl
@[simp] theorem consume_cper (s : State) : (consume s).cper = s.cper := rfl
@[simp] theorem consume_c (s : State) : (consume s).c = s.c := rfl
@[simp] theorem consume_cnt (s : State) : (consume s).cnt = s.cnt := rfl
@[simp] theorem consume_live (s : State) : (consume s).live = s.live := rfl
@[simp] theorem consume_ph (s : State) : (consume s).ph = s.ph := rfl
@[simp] theorem consume_cfg (s : State) : (consume s).cfg = s.cfg := rfl
@[simp] theorem consume_inputs (s : State) : (consume s).inputs = s.inputs.tail := rfl
@[simp] theorem consume_draws (s : State) : (consume s).draws = s.draws := rfl
@[simp] theorem consume_out (s : State) : (consume s).out = s.out := rfl
@[simp] theorem withFetchWord_o (s : State) (nbits w : Nat) :
    (s.withFetchWord nbits w).o = s.o := rfl
@[simp] theorem withFetchWord_oe (s : State) (nbits w : Nat) :
    (s.withFetchWord nbits w).oe = s.oe := rfl
@[simp] theorem withFetchWord_i (s : State) (nbits w : Nat) :
    (s.withFetchWord nbits w).i = s.i := rfl
@[simp] theorem withFetchWord_capen (s : State) (nbits w : Nat) :
    (s.withFetchWord nbits w).capen = s.capen := rfl
@[simp] theorem withFetchWord_cper (s : State) (nbits w : Nat) :
    (s.withFetchWord nbits w).cper = s.cper := rfl
@[simp] theorem withFetchWord_c (s : State) (nbits w : Nat) :
    (s.withFetchWord nbits w).c = s.c := rfl
@[simp] theorem withFetchWord_cnt (s : State) (nbits w : Nat) :
    (s.withFetchWord nbits w).cnt = s.cnt := rfl
@[simp] theorem withFetchWord_live (s : State) (nbits w : Nat) :
    (s.withFetchWord nbits w).live = s.live := rfl
@[simp] theorem withFetchWord_ph (s : State) (nbits w : Nat) :
    (s.withFetchWord nbits w).ph = s.ph := rfl
@[simp] theorem withFetchWord_cfg (s : State) (nbits w : Nat) :
    (s.withFetchWord nbits w).cfg = s.cfg := rfl
@[simp] theorem withFetchWord_inputs (s : State) (nbits w : Nat) :
    (s.withFetchWord nbits w).inputs = StepInput.ofTableWord nbits w :: s.inputs.tail := rfl
@[simp] theorem withFetchWord_draws (s : State) (nbits w : Nat) :
    (s.withFetchWord nbits w).draws = s.draws := rfl
@[simp] theorem withFetchWord_out (s : State) (nbits w : Nat) :
    (s.withFetchWord nbits w).out = s.out := rfl

/-! ### The outputs of a tick -/

@[simp] theorem outputs_padO (s : State) (rdata : Nat) : (outputs s rdata).padO = padO s := rfl
@[simp] theorem outputs_padOe (s : State) (rdata : Nat) : (outputs s rdata).padOe = padOe s := rfl
@[simp] theorem outputs_rdata (s : State) (rdata : Nat) : (outputs s rdata).rdata = rdata := rfl

end Sys2Proof.Machine
end

