-- ==== Sys2Proof/Laws/Ops.lean ====
section
/-!
SUPPORT. What each shared operation can do, said once: the derived signals, the scheduler, the channels, the pads, the read port, and
the inversion of `exec` over a decoded input record. Later proofs cite these and do not unfold the operations.
-/
namespace Sys2Proof.Machine

/-! ### Derived signals -/

theorem anyEn_iff (s : State) : anyEn s = true ↔ s.capen ≠ 0 := by simp [anyEn]

theorem latch_iff (s : State) : latch s = true ↔ s.capen ≠ 0 ∧ s.cnt = 0 := by simp [latch, anyEn]

theorem ev_iff (s : State) (sense : Pads) (n : Channel) :
    ev s sense n = true ↔ padBit s.capen n = true ∧ ofChannel s.ph n = .sensing ∧ padBit sense n = false := by
  simp [ev, and_assoc]

theorem ev_eq_false_of_disabled {s : State} {n : Channel} (sense : Pads) (h : padBit s.capen n = false) :
    ev s sense n = false := by simp [ev, h]

/-! ### The scheduler -/

theorem nextCnt_inert {s : State} (h : s.capen = 0) : nextCnt s = s.cnt := by simp [nextCnt, anyEn, h]

theorem nextCnt_latch {s : State} (h : s.capen ≠ 0) (h0 : s.cnt = 0) : nextCnt s = s.cper := by
  simp [nextCnt, (anyEn_iff s).mpr h, h0]

theorem nextCnt_count {s : State} (h : s.capen ≠ 0) (h0 : s.cnt ≠ 0) : nextCnt s = s.cnt - 1 := by
  simp [nextCnt, (anyEn_iff s).mpr h, h0]

/-- The next countdown is the old one, one less, or the period (R36, R140: it never underflows). -/
theorem nextCnt_le (s : State) : nextCnt s ≤ max s.cnt s.cper := by
  unfold nextCnt
  split
  · split <;> omega
  · omega

theorem nextC_latch {s : State} (h : latch s = true) (n : Channel) : nextC s n = ofChannel s.live n := by simp [nextC, h]

theorem nextC_hold {s : State} (h : latch s = false) (n : Channel) : nextC s n = ofChannel s.c n := by simp [nextC, h]

/-! ### The channels -/

theorem nextPh_disabled {s : State} {n : Channel} (sense : Pads) (h : padBit s.capen n = false) :
    nextPh s sense n = ofChannel s.ph n := by simp [nextPh, h]

theorem nextPh_charging {s : State} {n : Channel} (sense : Pads) (h : padBit s.capen n = true)
    (hp : ofChannel s.ph n = .charging) : nextPh s sense n = .sensing := by simp [nextPh, h, hp]

theorem nextPh_sensing {s : State} {n : Channel} (sense : Pads) (h : padBit s.capen n = true)
    (hp : ofChannel s.ph n = .sensing) : nextPh s sense n = if padBit sense n then .sensing else .charging := by
  simp [nextPh, h, hp]

theorem nextLive_latch {s : State} (sense : Pads) (h : latch s = true) (n : Channel) : nextLive s sense n = 0 := by
  simp [nextLive, h]

theorem nextLive_event {s : State} {sense : Pads} {n : Channel} (h : latch s = false) (he : ev s sense n = true) :
    nextLive s sense n = liveSrc s n + 1 := by simp [nextLive, h, he]

theorem nextLive_hold {s : State} {sense : Pads} {n : Channel} (h : latch s = false) (he : ev s sense n = false) :
    nextLive s sense n = ofChannel s.live n := by simp [nextLive, h, he]

theorem liveSrc_own {s : State} {n : Channel} (h : n ≠ .ch2 ∨ s.cfg.ch2Src = .corrected) :
    liveSrc s n = ofChannel s.live n := by
  cases n <;> simp_all [liveSrc, ofChannel]

theorem liveSrc_ch2_asBuilt {s : State} (h : s.cfg.ch2Src = .asBuilt) : liveSrc s .ch2 = s.live.ch1 := by
  simp [liveSrc, h]

/-! ### The pads -/

@[simp] theorem padBit_padO (s : State) (n : Channel) :
    padBit (padO s) n = if padBit s.capen n then true else padBit s.o n := by simp [padO]

@[simp] theorem padBit_padOe (s : State) (n : Channel) :
    padBit (padOe s) n = if padBit s.capen n then phaseBit (ofChannel s.ph n) else padBit s.oe n := by simp [padOe]

@[simp] theorem padBit_nextI (s : State) (sense : Pads) (n : Channel) :
    padBit (nextI s sense) n = if padBit s.capen n then padBit (Config.drawI s.draws) n else padBit sense n := by
  simp [nextI]

/-! ### The read port -/

theorem freeRdata_lt (s : State) : freeRdata s < 2 ^ s.cfg.w := truncW_lt _ _

/-- Every register fits the `W`-bit read port of a legal instance (R64, D21). -/
theorem regRead_lt {s : State} (hw : s.cfg.ok) (hp : s.cper < 2 ^ s.cfg.w) (r : Reg) : regRead s r < 2 ^ s.cfg.w := by
  have h8 : 2 ^ 8 ≤ 2 ^ s.cfg.w := Nat.pow_le_pow_right (by omega) (by have := hw; unfold Config.ok Config.minW at this; omega)
  have pads (v : Pads) : v.toNat < 2 ^ s.cfg.w := by have := v.isLt; unfold Config.nch at this; omega
  have count (v : Count) : v.toNat < 2 ^ s.cfg.w := by have := v.isLt; unfold Config.cntW at this; omega
  cases r
  case cper => exact hp
  case o => exact pads _
  case oe => exact pads _
  case i => exact pads _
  case capen => exact pads _
  case c1 => exact count _
  case c2 => exact count _
  case c3 => exact count _
  case c4 => exact count _

/-! ### One operation -/

/-- The tick of a host operation (R14): what `exec` does for every operation but `RESET`. -/
def opTick (op : HostOp) (s : State) (sense : Pads) : State :=
  match op with
  | .idle => idleTick s sense
  | .rd r => readTick r s sense
  | .wr r v => writeTick r v s sense

/-- Inversion of `exec`, for every operation but `RESET`. -/
theorem exec_of_tickInput {i : Instr} {op : HostOp} {sense : Pads} (h : tickInput i = some (op, sense)) (s : State) :
    exec i s = .next (opTick op s sense) := by
  cases i <;> simp only [tickInput, Option.some.injEq, Prod.mk.injEq, reduceCtorEq] at h <;> obtain ⟨rfl, rfl⟩ := h <;> rfl

theorem exec_reset (s : State) : exec .reset s = .next (resetTick s) := rfl

/-- Only `RESET` has no decoded input record. -/
theorem tickInput_eq_none_iff (i : Instr) : tickInput i = none ↔ i = .reset := by
  cases i <;> simp [tickInput]

/-- Every operation completes, in one of two ways. -/
theorem exec_cases (i : Instr) (s : State) :
    (i = .reset ∧ exec i s = .next (resetTick s)) ∨
    ∃ op sense, tickInput i = some (op, sense) ∧ exec i s = .next (opTick op s sense) := by
  cases h : tickInput i with
  | none => exact .inl ⟨(tickInput_eq_none_iff i).mp h, by rw [(tickInput_eq_none_iff i).mp h, exec_reset]⟩
  | some p => exact .inr ⟨p.1, p.2, rfl, exec_of_tickInput h s⟩

/-- The read port of an operation. -/
def opRdata (op : HostOp) (s : State) : Nat :=
  match op with
  | .rd r => regRead s r
  | _ => freeRdata s

@[simp] theorem opTick_i (op : HostOp) (s : State) (sense : Pads) : (opTick op s sense).i = nextI s sense := by
  cases op <;> simp [opTick, idleTick, readTick, writeTick]
@[simp] theorem opTick_c (op : HostOp) (s : State) (sense : Pads) : (opTick op s sense).c = perChannel (nextC s) := by
  cases op <;> simp [opTick, idleTick, readTick, writeTick]
@[simp] theorem opTick_cnt (op : HostOp) (s : State) (sense : Pads) : (opTick op s sense).cnt = nextCnt s := by
  cases op <;> simp [opTick, idleTick, readTick, writeTick]
@[simp] theorem opTick_live (op : HostOp) (s : State) (sense : Pads) :
    (opTick op s sense).live = perChannel (nextLive s sense) := by
  cases op <;> simp [opTick, idleTick, readTick, writeTick]
@[simp] theorem opTick_ph (op : HostOp) (s : State) (sense : Pads) : (opTick op s sense).ph = perChannel (nextPh s sense) := by
  cases op <;> simp [opTick, idleTick, readTick, writeTick]
@[simp] theorem opTick_cfg (op : HostOp) (s : State) (sense : Pads) : (opTick op s sense).cfg = s.cfg := by
  cases op <;> simp [opTick, idleTick, readTick, writeTick]
@[simp] theorem opTick_inputs (op : HostOp) (s : State) (sense : Pads) : (opTick op s sense).inputs = s.inputs := by
  cases op <;> simp [opTick, idleTick, readTick, writeTick]
@[simp] theorem opTick_draws (op : HostOp) (s : State) (sense : Pads) : (opTick op s sense).draws = s.draws + 1 := by
  cases op <;> simp [opTick, idleTick, readTick, writeTick]
@[simp] theorem opTick_out (op : HostOp) (s : State) (sense : Pads) :
    (opTick op s sense).out = some (outputs s (opRdata op s)) := by
  cases op <;> simp [opTick, idleTick, readTick, writeTick, opRdata]

/-- What an operation leaves in `O`; the next three say the same of the other host-writable registers (R101, R182). -/
theorem opTick_o (op : HostOp) (s : State) (sense : Pads) :
    (opTick op s sense).o = match op with
      | .wr .o v => truncPads v
      | _ => s.o := by
  rcases op with _ | r | ⟨r, v⟩ <;> first | rfl | (cases r <;> rfl)
theorem opTick_oe (op : HostOp) (s : State) (sense : Pads) :
    (opTick op s sense).oe = match op with
      | .wr .oe v => truncPads v
      | _ => s.oe := by
  rcases op with _ | r | ⟨r, v⟩ <;> first | rfl | (cases r <;> rfl)
theorem opTick_capen (op : HostOp) (s : State) (sense : Pads) :
    (opTick op s sense).capen = match op with
      | .wr .capen v => truncPads v
      | _ => s.capen := by
  rcases op with _ | r | ⟨r, v⟩ <;> first | rfl | (cases r <;> rfl)
theorem opTick_cper (op : HostOp) (s : State) (sense : Pads) :
    (opTick op s sense).cper = match op with
      | .wr .cper v => truncW s.cfg v
      | _ => s.cper := by
  rcases op with _ | r | ⟨r, v⟩ <;> first | rfl | (cases r <;> rfl)

end Sys2Proof.Machine
end

