-- ==== Sys2Proof/Laws/PerInstr.lean ====
section
/-!
SUPPORT. Per-instruction families. `RowSelects`: the mask-and-match test of the operation's row of spec/opcode_table.json (R84) accepts a
control word exactly when the decoder of R82 reads that operation from it, whatever the operands beside it.
-/
namespace Sys2Proof.Laws

theorem decode_eq_reset_iff (c : Ctl) (v : Nat) (s : Pads) :
    decode { ctl := c, wdata := v, sense := s } = .ok .reset ↔ ctlRst c = true := by
  unfold decode
  cases ctlRst c <;> cases ctlV c <;> cases ctlWe c <;> rcases Reg.ofIndex (ctlIdx c) with _ | r <;> simp <;>
    cases r <;> simp [Instr.ofRead, Instr.ofWrite]

theorem decode_eq_idle_iff (c : Ctl) (v : Nat) (s : Pads) :
    decode { ctl := c, wdata := v, sense := s } = .ok (.idle s) ↔ ctlRst c = false ∧ ctlV c = false := by
  unfold decode
  cases ctlRst c <;> cases ctlV c <;> cases ctlWe c <;> rcases Reg.ofIndex (ctlIdx c) with _ | r <;> simp <;>
    cases r <;> simp [Instr.ofRead, Instr.ofWrite]

theorem decode_eq_read_iff (q : Reg) (c : Ctl) (v : Nat) (s : Pads) :
    decode { ctl := c, wdata := v, sense := s } = .ok (Instr.ofRead q s) ↔
      ctlRst c = false ∧ ctlV c = true ∧ ctlWe c = false ∧ Reg.ofIndex (ctlIdx c) = some q := by
  unfold decode
  cases ctlRst c <;> cases ctlV c <;> cases ctlWe c <;> rcases Reg.ofIndex (ctlIdx c) with _ | r <;> cases q <;>
    simp [Instr.ofRead] <;> cases r <;> simp [Instr.ofWrite]

theorem decode_eq_write_iff (q : Reg) (c : Ctl) (v : Nat) (s : Pads) :
    decode { ctl := c, wdata := v, sense := s } = .ok (Instr.ofWrite q v s) ↔
      ctlRst c = false ∧ ctlV c = true ∧ ctlWe c = true ∧ Reg.ofIndex (ctlIdx c) = some q := by
  unfold decode
  cases ctlRst c <;> cases ctlV c <;> cases ctlWe c <;> rcases Reg.ofIndex (ctlIdx c) with _ | r <;> cases q <;>
    simp [Instr.ofWrite] <;> cases r <;> simp [Instr.ofRead]

/-- R84's mask test against R82's bit tests, over all 128 control words. -/
theorem reset_row : ∀ c : Ctl, (c &&& 0x40 == 0x40) = true ↔ ctlRst c = true := by decide

theorem idle_row : ∀ c : Ctl, (c &&& 0x60 == 0x00) = true ↔ ctlRst c = false ∧ ctlV c = false := by decide

theorem read_row (q : Reg) : ∀ c : Ctl, (c &&& 0x7F == BitVec.ofNat 7 (0x20 + q.index)) = true ↔
    ctlRst c = false ∧ ctlV c = true ∧ ctlWe c = false ∧ Reg.ofIndex (ctlIdx c) = some q := by
  cases q <;> decide

theorem write_row (q : Reg) : ∀ c : Ctl, (c &&& 0x7F == BitVec.ofNat 7 (0x30 + q.index)) = true ↔
    ctlRst c = false ∧ ctlV c = true ∧ ctlWe c = true ∧ Reg.ofIndex (ctlIdx c) = some q := by
  cases q <;> decide

namespace RowSelects

/-- The row of `i` accepts exactly the control words that decode to `i`, given the operands `i` carries. -/
def Statement (i : Instr) : Prop :=
  ∀ c : Ctl, i.selectedBy c = true ↔ decode { ctl := c, wdata := i.wdata, sense := i.sense } = .ok i

theorem reset : Statement .reset := fun c => (reset_row c).trans (decode_eq_reset_iff c _ _).symm
theorem idle (s : Pads) : Statement (.idle s) := fun c => (idle_row c).trans (decode_eq_idle_iff c _ s).symm
theorem rdO (s : Pads) : Statement (.rdO s) := fun c => (read_row .o c).trans (decode_eq_read_iff .o c _ s).symm
theorem rdOe (s : Pads) : Statement (.rdOe s) := fun c => (read_row .oe c).trans (decode_eq_read_iff .oe c _ s).symm
theorem rdI (s : Pads) : Statement (.rdI s) := fun c => (read_row .i c).trans (decode_eq_read_iff .i c _ s).symm
theorem rdCapen (s : Pads) : Statement (.rdCapen s) := fun c => (read_row .capen c).trans (decode_eq_read_iff .capen c _ s).symm
theorem rdCper (s : Pads) : Statement (.rdCper s) := fun c => (read_row .cper c).trans (decode_eq_read_iff .cper c _ s).symm
theorem rdC1 (s : Pads) : Statement (.rdC1 s) := fun c => (read_row .c1 c).trans (decode_eq_read_iff .c1 c _ s).symm
theorem rdC2 (s : Pads) : Statement (.rdC2 s) := fun c => (read_row .c2 c).trans (decode_eq_read_iff .c2 c _ s).symm
theorem rdC3 (s : Pads) : Statement (.rdC3 s) := fun c => (read_row .c3 c).trans (decode_eq_read_iff .c3 c _ s).symm
theorem rdC4 (s : Pads) : Statement (.rdC4 s) := fun c => (read_row .c4 c).trans (decode_eq_read_iff .c4 c _ s).symm
theorem wrO (v : Nat) (s : Pads) : Statement (.wrO v s) := fun c => (write_row .o c).trans (decode_eq_write_iff .o c v s).symm
theorem wrOe (v : Nat) (s : Pads) : Statement (.wrOe v s) := fun c => (write_row .oe c).trans (decode_eq_write_iff .oe c v s).symm
theorem wrI (v : Nat) (s : Pads) : Statement (.wrI v s) := fun c => (write_row .i c).trans (decode_eq_write_iff .i c v s).symm
theorem wrCapen (v : Nat) (s : Pads) : Statement (.wrCapen v s) := fun c => (write_row .capen c).trans (decode_eq_write_iff .capen c v s).symm
theorem wrCper (v : Nat) (s : Pads) : Statement (.wrCper v s) := fun c => (write_row .cper c).trans (decode_eq_write_iff .cper c v s).symm
theorem wrC1 (v : Nat) (s : Pads) : Statement (.wrC1 v s) := fun c => (write_row .c1 c).trans (decode_eq_write_iff .c1 c v s).symm
theorem wrC2 (v : Nat) (s : Pads) : Statement (.wrC2 v s) := fun c => (write_row .c2 c).trans (decode_eq_write_iff .c2 c v s).symm
theorem wrC3 (v : Nat) (s : Pads) : Statement (.wrC3 v s) := fun c => (write_row .c3 c).trans (decode_eq_write_iff .c3 c v s).symm
theorem wrC4 (v : Nat) (s : Pads) : Statement (.wrC4 v s) := fun c => (write_row .c4 c).trans (decode_eq_write_iff .c4 c v s).symm

end RowSelects

end Sys2Proof.Laws
end

