-- ==== Sys2Proof/Laws/Run.lean ====
section
/-!
SUPPORT. Laws of a run of operations (`runInstrs`) and of a property along it (`AlongRun`): how they split at the head and at an append.
-/
namespace Sys2Proof.Machine

/-- Every operation completes, and keeps the configuration and the pending step inputs. -/
theorem exec_completes (i : Instr) (s : State) : ∃ t, exec i s = .next t ∧ t.cfg = s.cfg ∧ t.inputs = s.inputs := by
  rcases exec_cases i s with ⟨_, h⟩ | ⟨op, sense, _, h⟩
  · exact ⟨_, h, rfl, rfl⟩
  · exact ⟨_, h, opTick_cfg .., opTick_inputs ..⟩

theorem runInstrs_cons {i : Instr} {s t : State} (h : exec i s = .next t) (is : List Instr) :
    runInstrs (i :: is) s = runInstrs is t := by simp [runInstrs, h]

theorem runInstrs_append {is : List Instr} {s u : State} (h : runInstrs is s = .next u) (js : List Instr) :
    runInstrs (is ++ js) s = runInstrs js u := by
  induction is generalizing s with
  | nil => cases h; rfl
  | cons i is ih =>
    obtain ⟨t, ht, _⟩ := exec_completes i s
    rw [runInstrs_cons ht] at h
    rw [List.cons_append, runInstrs_cons ht, ih h]

theorem AlongRun.head {P : State → Prop} {is : List Instr} {s : State} (h : AlongRun P is s) : P s := by
  cases is
  · exact h
  · exact h.1

theorem AlongRun.tail {P : State → Prop} {i : Instr} {is : List Instr} {s t : State} (h : AlongRun P (i :: is) s)
    (ht : exec i s = .next t) : AlongRun P is t := h.2 t ht

theorem alongRun_cons {P : State → Prop} {i : Instr} {is : List Instr} {s t : State} (hs : P s) (ht : exec i s = .next t)
    (h : AlongRun P is t) : AlongRun P (i :: is) s := by
  refine ⟨hs, fun u hu => ?_⟩
  rw [ht] at hu
  cases hu
  exact h

theorem AlongRun.append_left {P : State → Prop} {is js : List Instr} {s : State} (h : AlongRun P (is ++ js) s) :
    AlongRun P is s := by
  induction is generalizing s with
  | nil => exact h.head
  | cons i is ih => exact ⟨h.1, fun t ht => ih (h.2 t ht)⟩

theorem AlongRun.append_right {P : State → Prop} {is js : List Instr} {s u : State} (h : AlongRun P (is ++ js) s)
    (hu : runInstrs is s = .next u) : AlongRun P js u := by
  induction is generalizing s with
  | nil => cases hu; exact h
  | cons i is ih =>
    obtain ⟨t, ht, _⟩ := exec_completes i s
    rw [runInstrs_cons ht] at hu
    exact ih (h.2 t ht) hu

end Sys2Proof.Machine
end

