-- ==== Sys2Proof/Tests/Slice0.lean ====
section
/-!
SUPPORT. Tests, with expected values from spec/ (the vector or rule of each is named in its comment), and the witnesses that the
hypotheses of the statements can be met. Each test is about one decode or one tick.
-/
namespace Sys2Proof.Tests
open Sys2Proof.Machine

/-! ### Helpers -/

def nextOf : Result → Option State
  | .next t => some t
  | _ => none

def refusalOf : Result → Option Refusal
  | .refused r => some r
  | _ => none

def rdataOf (r : Result) : Option Nat := (nextOf r).bind fun t => t.out.map StepOutput.rdata

def padsOfTick (r : Result) : Option (Pads × Pads) := (nextOf r).bind fun t => t.out.map fun y => (y.padO, y.padOe)

/-- The pre-tick state X of vector V30. -/
def x30 : State :=
  { State.reset with
    o := 0b0101, oe := 0b0011, i := 0b1001, cper := 1000, c := ⟨17, 34, 51, 68⟩, cnt := 7, live := ⟨1, 2, 3, 4⟩ }

/-- A state about to latch, with channel 1 in cap mode (after vector V43). -/
def x43 : State := { State.reset with capen := 0b0001, cper := 6, cnt := 0, live := ⟨7, 0, 0, 0⟩, c := ⟨1, 0, 0, 0⟩ }

/-- The pre-tick state of vector V40. -/
def x40 : State :=
  { State.reset with
    o := 0b0101, oe := 0b0011, i := 0b0010, capen := 0b1001, cper := 77, c := ⟨1, 2, 3, 4⟩, cnt := 12, live := ⟨5, 6, 7, 8⟩
    ph := ⟨.charging, .sensing, .sensing, .charging⟩ }

/-- The pre-tick state of vector V21. -/
def x21 : State :=
  { State.reset with
    o := 0b0110, oe := 0b1010, capen := 0b1100, cnt := 7, ph := ⟨.sensing, .sensing, .charging, .sensing⟩ }

/-- `s` with one step input placed. -/
def given (s : State) (ctl : Ctl) (wdata : Nat) (sense : Pads) : State := { s with inputs := [⟨ctl, wdata, sense⟩] }

/-! ### WellFormed: an ill-formed term for each check (`wdata` of 21 bits at `W = 20`, R81) -/

theorem test_illFormed_wrO : (Instr.wrO 0x100000 0).wellFormed 20 = false := by decide
theorem test_illFormed_wrOe : (Instr.wrOe 0x100000 0).wellFormed 20 = false := by decide
theorem test_illFormed_wrI : (Instr.wrI 0x100000 0).wellFormed 20 = false := by decide
theorem test_illFormed_wrCapen : (Instr.wrCapen 0x100000 0).wellFormed 20 = false := by decide
theorem test_illFormed_wrCper : (Instr.wrCper 0x100000 0).wellFormed 20 = false := by decide
theorem test_illFormed_wrC1 : (Instr.wrC1 0x100000 0).wellFormed 20 = false := by decide
theorem test_illFormed_wrC2 : (Instr.wrC2 0x100000 0).wellFormed 20 = false := by decide
theorem test_illFormed_wrC3 : (Instr.wrC3 0x100000 0).wellFormed 20 = false := by decide
theorem test_illFormed_wrC4 : (Instr.wrC4 0x100000 0).wellFormed 20 = false := by decide
theorem test_wellFormed_widest : (Instr.wrCper 0xFFFFF 0xF).wellFormed 20 = true := by decide

/-! ### Decode: each operation's word written out from the patterns of R84, with operands beside it -/

theorem test_decode_reset : decode ⟨0b1000000, 9, 0b0101⟩ = .ok .reset := by decide
/-- V41, V42: bit 6 is tested first, so a reserved index beside it is ignored. -/
theorem test_decode_reset_ignores : decode ⟨0b1101001, 9, 0b0101⟩ = .ok .reset := by decide
theorem test_decode_idle : decode ⟨0b0000000, 9, 0b0101⟩ = .ok (.idle 0b0101) := by decide
/-- V42: `ctl[4:0]` is ignored when `v = 0`. -/
theorem test_decode_idle_ignores : decode ⟨0b0011111, 9, 0b0101⟩ = .ok (.idle 0b0101) := by decide
theorem test_decode_rdO : decode ⟨0b0100000, 9, 0b0101⟩ = .ok (.rdO 0b0101) := by decide
theorem test_decode_rdOe : decode ⟨0b0100001, 9, 0b0101⟩ = .ok (.rdOe 0b0101) := by decide
theorem test_decode_rdI : decode ⟨0b0100010, 9, 0b0101⟩ = .ok (.rdI 0b0101) := by decide
theorem test_decode_rdCapen : decode ⟨0b0100011, 9, 0b0101⟩ = .ok (.rdCapen 0b0101) := by decide
theorem test_decode_rdCper : decode ⟨0b0100100, 9, 0b0101⟩ = .ok (.rdCper 0b0101) := by decide
theorem test_decode_rdC1 : decode ⟨0b0100101, 9, 0b0101⟩ = .ok (.rdC1 0b0101) := by decide
theorem test_decode_rdC2 : decode ⟨0b0100110, 9, 0b0101⟩ = .ok (.rdC2 0b0101) := by decide
theorem test_decode_rdC3 : decode ⟨0b0100111, 9, 0b0101⟩ = .ok (.rdC3 0b0101) := by decide
theorem test_decode_rdC4 : decode ⟨0b0101000, 9, 0b0101⟩ = .ok (.rdC4 0b0101) := by decide
theorem test_decode_wrO : decode ⟨0b0110000, 9, 0b0101⟩ = .ok (.wrO 9 0b0101) := by decide
theorem test_decode_wrOe : decode ⟨0b0110001, 9, 0b0101⟩ = .ok (.wrOe 9 0b0101) := by decide
theorem test_decode_wrI : decode ⟨0b0110010, 9, 0b0101⟩ = .ok (.wrI 9 0b0101) := by decide
theorem test_decode_wrCapen : decode ⟨0b0110011, 9, 0b0101⟩ = .ok (.wrCapen 9 0b0101) := by decide
theorem test_decode_wrCper : decode ⟨0b0110100, 9, 0b0101⟩ = .ok (.wrCper 9 0b0101) := by decide
theorem test_decode_wrC1 : decode ⟨0b0110101, 9, 0b0101⟩ = .ok (.wrC1 9 0b0101) := by decide
theorem test_decode_wrC2 : decode ⟨0b0110110, 9, 0b0101⟩ = .ok (.wrC2 9 0b0101) := by decide
theorem test_decode_wrC3 : decode ⟨0b0110111, 9, 0b0101⟩ = .ok (.wrC3 9 0b0101) := by decide
theorem test_decode_wrC4 : decode ⟨0b0111000, 9, 0b0101⟩ = .ok (.wrC4 9 0b0101) := by decide
/-- V42, R87: the first and the last reserved word of each group. -/
theorem test_decode_reserved :
    decode ⟨0x29, 0, 0⟩ = .error (.reservedIndex 0x29) ∧ decode ⟨0x2F, 0, 0⟩ = .error (.reservedIndex 0x2F) ∧
    decode ⟨0x39, 0, 0⟩ = .error (.reservedIndex 0x39) ∧ decode ⟨0x3F, 0, 0⟩ = .error (.reservedIndex 0x3F) := by decide
/-- The table word of `wr CPER, 5 ; sense=1010` in the layout of log 9, and the same row with its operands 0. -/
theorem test_tableWord : decodeTableWord 32 0x5A34 = some (.wrCper 5 0b1010) ∧ decodeTableWord 8 0x34 = some (.wrCper 0 0) := by
  decide
theorem test_tableWord_reserved : decodeTableWord 8 0x29 = none := by decide

/-! ### Reset state (R37) -/

theorem test_reset_cper : State.reset.cper = 524288 ∧ State.reset.cnt = 0 ∧ State.reset.capen = 0 := by decide

/-- D24, U6: another `CPER_RESET` is what `RESET` puts into `CPER`. -/
theorem test_reset_cperReset :
    (nextOf (exec .reset { State.reset with cfg := { Config.byDefault with cperReset := 0xFFFFF }, cper := 3 })).map (·.cper) =
      some 1048575 := by decide

/-! ### The register operations (vector V30: all from state X with `sense = 1111`) -/

theorem test_rdO_answers : rdataOf (exec (.rdO 0b1111) x30) = some 5 := by decide
theorem test_rdOe_answers : rdataOf (exec (.rdOe 0b1111) x30) = some 3 := by decide
theorem test_rdI_answers : rdataOf (exec (.rdI 0b1111) x30) = some 9 := by decide
theorem test_rdCapen_answers : rdataOf (exec (.rdCapen 0b1111) x30) = some 0 := by decide
theorem test_rdCper_answers : rdataOf (exec (.rdCper 0b1111) x30) = some 1000 := by decide
theorem test_rdC1_answers : rdataOf (exec (.rdC1 0b1111) x30) = some 17 := by decide
theorem test_rdC2_answers : rdataOf (exec (.rdC2 0b1111) x30) = some 34 := by decide
theorem test_rdC3_answers : rdataOf (exec (.rdC3 0b1111) x30) = some 51 := by decide
theorem test_rdC4_answers : rdataOf (exec (.rdC4 0b1111) x30) = some 68 := by decide
/-- V30: a read changes nothing but the mirror. -/
theorem test_rdI_mirrors : (nextOf (exec (.rdI 0b1111) x30)).map (fun t => (t.i, t.cnt, t.live, t.c)) =
    some (0b1111, 7, ⟨1, 2, 3, 4⟩, ⟨17, 34, 51, 68⟩) := by decide
theorem test_wrO_masks : (nextOf (exec (.wrO 501 0b1111) x30)).map (fun t => (t.o, t.oe, t.i)) = some (0b0101, 0b0011, 0b1111) := by
  decide
theorem test_wrO_stores : (nextOf (exec (.wrO 10 0b1111) x30)).map (·.o) = some 0b1010 := by decide
theorem test_wrOe_stores : (nextOf (exec (.wrOe 12 0b1111) x30)).map (fun t => (t.oe, t.o)) = some (0b1100, 0b0101) := by decide
theorem test_wrI_ignored : (nextOf (exec (.wrI 6 0b1111) x30)).map (·.i) = some 0b1111 := by decide
theorem test_wrCapen_stores : (nextOf (exec (.wrCapen 3 0b1111) x30)).map (fun t => (t.capen, t.cnt)) = some (0b0011, 7) := by decide
theorem test_wrCper_stores : (nextOf (exec (.wrCper 1048575 0b1111) x30)).map (fun t => (t.cper, t.cnt)) = some (1048575, 7) := by
  decide
/-- V30: the host value 0x100005 is cut to 20 bits. -/
theorem test_wrCper_cuts : (nextOf (exec (.wrCper 1048581 0b1111) x30)).map (·.cper) = some 5 := by decide
theorem test_wrC1_ignored : (nextOf (exec (.wrC1 255 0b1111) x30)).map (·.c) = some ⟨17, 34, 51, 68⟩ := by decide
theorem test_wrC2_ignored : (nextOf (exec (.wrC2 255 0b1111) x30)).map (·.c) = some ⟨17, 34, 51, 68⟩ := by decide
theorem test_wrC3_ignored : (nextOf (exec (.wrC3 255 0b1111) x30)).map (·.c) = some ⟨17, 34, 51, 68⟩ := by decide
theorem test_wrC4_ignored : (nextOf (exec (.wrC4 255 0b1111) x30)).map (·.c) = some ⟨17, 34, 51, 68⟩ := by decide

/-! ### The block's own update -/

/-- V21: one tick in mixed modes; the pads and the phases. -/
theorem test_idle_mixedModes : padsOfTick (exec (.idle 0b0101) x21) = some (0b1110, 0b0110) ∧
    (nextOf (exec (.idle 0b0101) x21)).map (fun t => (t.ph, t.live, t.cnt)) =
      some (⟨.sensing, .sensing, .sensing, .charging⟩, ⟨0, 0, 0, 1⟩, 6) := by decide
/-- V21: the bits of `I` the spec fixes on that tick (channels 1 and 2; those of 3 and 4 are free). -/
theorem test_idle_mirrors : ∃ t, exec (.idle 0b0101) x21 = .next t ∧ padBit t.i .ch1 = true ∧ padBit t.i .ch2 = false := by
  refine ⟨idleTick x21 0b0101, rfl, ?_, ?_⟩
  · exact (padBit_nextI x21 0b0101 .ch1).trans (by decide)
  · exact (padBit_nextI x21 0b0101 .ch2).trans (by decide)
/-- V43: latch, event, host write and mirror on one tick, each from the pre-tick state. -/
theorem test_wrCapen_simultaneous : (nextOf (exec (.wrCapen 2 0b1110) x43)).map (fun t => (t.c, t.live, t.ph, t.cnt, t.capen)) =
    some (⟨7, 0, 0, 0⟩, ⟨0, 0, 0, 0⟩, ⟨.charging, .sensing, .sensing, .sensing⟩, 6, 0b0010) := by decide
/-- V9: a write of CPER on a latch tick is not seen by that tick's reload. -/
theorem test_wrCper_onLatch : (nextOf (exec (.wrCper 3 0b1111) x43)).map (fun t => (t.cnt, t.cper)) = some (6, 3) := by decide
/-- V11: the live counter wraps. -/
theorem test_live_wraps : (nextOf (exec (.idle 0b1110) { x43 with cnt := 1, live := ⟨255, 0, 0, 0⟩ })).map (·.live) =
    some ⟨0, 0, 0, 0⟩ := by decide
/-- V3, tick 3: channel 2's event as built takes channel 1's count plus one. -/
theorem test_channel2_asBuilt : (nextOf (exec (.idle 0b1100)
    { State.reset with capen := 0b0011, cnt := 8, live := ⟨2, 0, 0, 0⟩, ph := ⟨.charging, .sensing, .sensing, .sensing⟩ })).map (·.live) =
    some ⟨2, 3, 0, 0⟩ := by decide
/-- V3, tick 3, with `CH2_SRC = 2`. -/
theorem test_channel2_corrected : (nextOf (exec (.idle 0b1100)
    { State.reset with
      cfg := { Config.byDefault with ch2Src := .corrected }, capen := 0b0011, cnt := 8, live := ⟨2, 0, 0, 0⟩
      ph := ⟨.charging, .sensing, .sensing, .sensing⟩ })).map (·.live) = some ⟨2, 1, 0, 0⟩ := by decide

/-! ### RESET and the step -/

/-- V40: the outputs of the reset tick are still those of the old state, and the mirror does not run. -/
theorem test_reset_outputs : padsOfTick (exec .reset x40) = some (0b1101, 0b1011) ∧
    (nextOf (exec .reset x40)).map (fun t => (t.i, t.cper, t.capen, t.cnt, t.c)) = some (0, 524288, 0, 0, ⟨0, 0, 0, 0⟩) := by decide
/-- V41: reset beats the host access beside it. -/
theorem test_step_resetBeatsWrite : (nextOf (step (given x40 0x74 9 0))).map (fun t => (t.cper, t.inputs)) = some (524288, []) := by
  decide
/-- R87: the step is refused. -/
theorem test_step_reserved : refusalOf (step (given x40 0x29 0 0)) = some (.reservedControlWord 0x29) := by decide
/-- R9: an instance of 19 bits is refused. -/
theorem test_step_narrow : refusalOf (step { given x40 0x00 0 0 with cfg := { Config.byDefault with w := 19 } }) =
    some (.widthBelowTwenty 19) := by decide
/-- The first step after reset runs the placed word (`rd CPER`, which answers the reset value of R37). -/
theorem test_step_withFetchWord : (nextOf (step (State.reset.withFetchWord 8 0x24))).bind (fun t => t.out.map (·.rdata)) =
    some 524288 := by decide

/-! ### Witnesses: the hypotheses of the statements can be met, each clause at a boundary value -/

theorem witness_DecodingFollowsTheOrderAndIsTotal :
    (0x7F : Ctl).getLsbD 6 = true ∧ ((0x1F : Ctl).getLsbD 6 = false ∧ (0x1F : Ctl).getLsbD 5 = false) ∧
    ((0x20 : Ctl).getLsbD 6 = false ∧ (0x20 : Ctl).getLsbD 5 = true ∧ (0x20 : Ctl).toNat % 16 = Reg.index .o ∧
      (0x20 : Ctl).getLsbD 4 = false) ∧
    ((0x38 : Ctl).getLsbD 6 = false ∧ (0x38 : Ctl).getLsbD 5 = true ∧ (0x38 : Ctl).toNat % 16 = Reg.index .c4 ∧
      (0x38 : Ctl).getLsbD 4 = true) ∧
    ((0x29 : Ctl).getLsbD 6 = false ∧ (0x29 : Ctl).getLsbD 5 = true ∧ 9 ≤ (0x29 : Ctl).toNat % 16) := by decide

theorem witness_EveryWellFormedOperationSurvivesItsTableWord : (Instr.wrCper (2 ^ 20 - 1) 0b1111).wellFormed 20 = true := by decide

/-- Data wider than the port, and ignored bits set. -/
theorem witness_EveryPresentedOperationIsWellFormed :
    decode (StepInput.onEntry 20 ⟨0x34, 2 ^ 20 + 5, 0⟩) = .ok (.wrCper 5 0) ∧
    decode (StepInput.onEntry 20 ⟨0x1F, 2 ^ 20 + 5, 3⟩) = .ok (.idle 3) := by decide

theorem witness_StepRunsTheDecodedOperation :
    ((given x30 0x30 10 0b1111).cfg.ok ∧ (given x30 0x30 10 0b1111).inputs = ⟨0x30, 10, 0b1111⟩ :: [] ∧
      decode (StepInput.onEntry 20 ⟨0x30, 10, 0b1111⟩) = .ok (.wrO 10 0b1111)) ∧ x30.inputs = [] := by decide

/-- One input for each case of the pseudocode: reset, idle, a reserved index, the first read and the last write. -/
theorem witness_StepIsTheStepOfTheSpec :
    (given x40 0x40 0 0).cfg.ok ∧ (given x40 0x40 0 0).inputs = ⟨0x40, 0, 0⟩ :: [] ∧ (0x40 : Ctl).getLsbD 6 = true ∧
    ((0x00 : Ctl).getLsbD 6 = false ∧ (0x00 : Ctl).getLsbD 5 = false) ∧
    ((0x3F : Ctl).getLsbD 6 = false ∧ (0x3F : Ctl).getLsbD 5 = true ∧ 9 ≤ (0x3F : Ctl).toNat % 16) ∧
    ((0x20 : Ctl).toNat % 16 = Reg.index .o ∧ (0x20 : Ctl).getLsbD 5 = true ∧ (0x20 : Ctl).getLsbD 4 = false) ∧
    ((0x38 : Ctl).toNat % 16 = Reg.index .c4 ∧ (0x38 : Ctl).getLsbD 5 = true ∧ (0x38 : Ctl).getLsbD 4 = true) := by decide

theorem witness_ReservedControlWordsAreRefused :
    (given x40 0x29 0 0).cfg.ok ∧ 0x29 ≤ (fetch (given x40 0x29 0 0)).ctl.toNat ∧ (fetch (given x40 0x29 0 0)).ctl.toNat ≤ 0x2F ∧
    (given x40 0x3F 0 0).cfg.ok ∧ 0x39 ≤ (fetch (given x40 0x3F 0 0)).ctl.toNat ∧ (fetch (given x40 0x3F 0 0)).ctl.toNat ≤ 0x3F := by
  decide

theorem witness_StepCompletesOnEveryOtherInput :
    (given x40 0x38 0 0).cfg.ok ∧
    ¬ ((0x29 ≤ (fetch (given x40 0x38 0 0)).ctl.toNat ∧ (fetch (given x40 0x38 0 0)).ctl.toNat ≤ 0x2F) ∨
      (0x39 ≤ (fetch (given x40 0x38 0 0)).ctl.toNat ∧ (fetch (given x40 0x38 0 0)).ctl.toNat ≤ 0x3F)) := by decide

theorem witness_InstancesBelowTwentyBitsAreRefused :
    ({ x40 with cfg := { Config.byDefault with w := 19 } } : State).cfg.w < 20 := by decide

theorem witness_ResetStateHoldsTheResetValues : State.reset.cfg.cperReset = 524288 := by decide

theorem witness_ResetOverridesEverything :
    (0x40 : Ctl).getLsbD 6 = true ∧ (0x7F : Ctl).getLsbD 6 = true ∧ x40.cfg.cperReset = 524288 := by decide

theorem inResetState_reset : InResetState State.reset where
  o := rfl
  oe := rfl
  i := rfl
  capen := rfl
  cper := rfl
  c := fun n => by cases n <;> rfl
  cnt := rfl
  live := fun n => by cases n <;> rfl
  ph := fun n => by cases n <;> rfl

theorem witness_FirstTickAfterResetOnlyMirrorsThePads :
    InResetState State.reset ∧ tickInput (.wrCapen 15 0b1010) = some (.wr .capen 15, 0b1010) := ⟨inResetState_reset, by decide⟩

theorem witness_IdleRunsOnlyTheBlock : x30.capen = 0 := by decide

theorem witness_RewritingTheHeldValueIsAnIdleTick :
    ({ x30 with cper := 2 ^ 20 - 1 } : State).cper < 2 ^ ({ x30 with cper := 2 ^ 20 - 1 } : State).cfg.w := by decide

theorem witness_WritesAreUsedFromTheNextTick :
    padBit x21.capen .ch1 = false ∧ tickInput (.rdCper 3) = some (.rd .cper, 3) ∧
    (writeTick .cper 9 { x43 with cnt := 1 } 0).latchTick := by decide

theorem witness_ReadsOnALatchTickAnswerTheOldCount : x43.latchTick := by decide

/-- The premises of each clause: a write that changes its register, a latch that changes a count, no channel enabled, one channel
disabled, and an operation that is no write. -/
theorem witness_WhatATickCannotChange :
    tickInput (.wrO 10 0b1111) = some (.wr .o 10, 0b1111) ∧
    (nextOf (exec (.wrO 10 0b1111) x30)).map (fun t => decide (t.o ≠ x30.o)) = some true ∧
    (nextOf (exec (.idle 0b1111) x43)).map (fun t => decide (ofChannel t.c .ch1 ≠ ofChannel x43.c .ch1)) = some true ∧
    x30.capen = 0 ∧ padBit x43.capen .ch4 = false ∧ tickInput (.rdC4 0) = some (.rd .c4, 0) := by decide

theorem witness_NonzeroCountdownDecrements :
    tickInput (.wrCper 3 0) = some (.wr .cper 3, 0) ∧ ({ x43 with cnt := 1 } : State).capen ≠ 0 ∧ ({ x43 with cnt := 1 } : State).cnt ≠ 0 ∧
    ¬ State.event { x43 with cnt := 1 } 0b0000 .ch2 := by decide

theorem witness_LatchReloadsCopiesAndClears :
    tickInput (.idle 0b1110) = some (.idle, 0b1110) ∧ (x43.capen ≠ 0 ∧ x43.cnt = 0) ∧ x43.event 0b1110 .ch1 ∧
    ¬ (x30.capen ≠ 0 ∧ x30.cnt = 0) := by decide

theorem witness_DisabledBlockFreezesItsCounts :
    (∀ i ∈ [Instr.idle 0, .wrCapen 16 0], i ≠ .reset) ∧ AlongRun (fun u => u.capen = 0) [.idle 0, .wrCapen 16 0] x30 :=
  ⟨by decide, alongRun_cons (by decide) rfl (alongRun_cons (show x30.capen = 0 by decide) rfl (show truncPads 16 = 0 by decide))⟩

/-- `CPER = 1`: one tick (not yet a latch tick) and two ticks (the bound, `CPER + 1`). -/
theorem witness_LatchTicksAreCperPlusOneApart :
    let s : State := { x43 with cper := 1 }
    s.latchTick ∧ AlongRun (fun u => u.capen ≠ 0 ∧ u.cper = s.cper) [.idle 0, .rdC1 0] s ∧
      1 ≤ [Instr.idle 0, .rdC1 0].length ∧ [Instr.idle 0, .rdC1 0].length = s.cper + 1 ∧ x30.capen = 0 := by
  intro s
  refine ⟨by decide, ?_, by decide, by decide, by decide⟩
  have h : s.capen ≠ 0 ∧ s.cper = s.cper := ⟨by decide, rfl⟩
  exact alongRun_cons h rfl (alongRun_cons h rfl h)

theorem witness_ZeroPeriodLatchesEveryTick :
    let s : State := { x43 with cper := 0 }
    s.cnt = 0 ∧ AlongRun (fun u => u.capen ≠ 0 ∧ u.cper = 0) [.idle 0, .rdC1 0] s ∧ 2 ≤ [Instr.idle 0, .rdC1 0].length := by
  intro s
  have h : s.capen ≠ 0 ∧ s.cper = 0 := by decide
  exact ⟨by decide, alongRun_cons h rfl (alongRun_cons h rfl h), by decide⟩

/-- A write of 0 with the countdown at 1: the countdown then is 0 and one further tick loads the new period. -/
theorem witness_RewrittenPeriodIsLoadedByTheNextLatch :
    let s : State := { x43 with cnt := 1 }
    let t : State := writeTick .cper 0 s 0
    s.capen ≠ 0 ∧ exec (.wrCper 0 0) s = .next t ∧ AlongRun (fun u => u.capen ≠ 0 ∧ u.cper = t.cper) [.idle 0] t ∧
      ([] : List Instr).length ≤ t.cnt ∧ [Instr.idle 0].length = t.cnt + 1 := by
  intro s t
  have h : t.capen ≠ 0 ∧ t.cper = t.cper := ⟨by decide, rfl⟩
  exact ⟨by decide, rfl, alongRun_cons h rfl h, by decide, by decide⟩

theorem witness_FirstEnabledTickAfterResetLatchesZeros :
    InResetState State.reset ∧ 0x31 % 16 ≠ 0 ∧ tickInput (.wrCper 3 0) = some (.wr .cper 3, 0) :=
  ⟨inResetState_reset, by decide, by decide⟩

/-- `CPER = 1`: one tick after the first latch tick (no latch tick) and two ticks after it (the second latch tick). -/
theorem witness_BootSequenceReachesTheSecondLatch :
    let r : State := writeTick .cper 1 State.reset 0
    let t : State := writeTick .capen 1 r 0
    let P : State → Prop := fun u => u.capen ≠ 0 ∧ u.cper = 1 % 2 ^ State.reset.cfg.w
    InResetState State.reset ∧ 1 % 16 ≠ 0 ∧ tickInput (.rdC1 0) = some (.rd .c1, 0) ∧
      exec (.wrCper 1 0) State.reset = .next r ∧ exec (.wrCapen 1 0) r = .next t ∧
      (1 ≤ [Instr.idle 0].length ∧ [Instr.idle 0].length < 1 % 2 ^ State.reset.cfg.w + 1 ∧ AlongRun P [.idle 0] t) ∧
      ([Instr.idle 0, .rdC1 0].length = 1 % 2 ^ State.reset.cfg.w + 1 ∧ AlongRun P [.idle 0, .rdC1 0] t) := by
  intro r t P
  have h : P t := (by decide : t.capen ≠ 0 ∧ t.cper = 1 % 2 ^ State.reset.cfg.w)
  exact ⟨inResetState_reset, by decide, by decide, rfl, rfl, ⟨by decide, by decide, alongRun_cons h rfl h⟩, by decide,
    alongRun_cons h rfl (alongRun_cons h rfl h)⟩

/-- The four rows of the table, on vector V21's state and one like it. -/
theorem witness_ChannelNextStateTable :
    tickInput (.idle 0b0101) = some (.idle, 0b0101) ∧ padBit x21.capen .ch1 = false ∧
    (padBit x21.capen .ch3 = true ∧ ofChannel x21.ph .ch3 = .charging) ∧
    (padBit x21.capen .ch4 = true ∧ ofChannel x21.ph .ch4 = .sensing ∧ padBit 0b1101 .ch4 = true) ∧
    (padBit x21.capen .ch4 = true ∧ ofChannel x21.ph .ch4 = .sensing ∧ padBit 0b0101 .ch4 = false) := by decide

theorem witness_LiveCounterCountsEvents :
    tickInput (.rdC2 0b1100) = some (.rd .c2, 0b1100) ∧ x43.latchTick ∧
    (let s : State := { x43 with cnt := 1, capen := 0b0011 }
     ¬ s.latchTick ∧ s.event 0b1100 .ch1 ∧ s.event 0b1100 .ch2 ∧ ¬ s.event 0b1100 .ch3 ∧ s.cfg.ch2Src = .asBuilt) ∧
    (let s : State := { x43 with cnt := 1, capen := 0b0011, cfg := { Config.byDefault with ch2Src := .corrected } }
     ¬ s.latchTick ∧ s.event 0b1100 .ch2 ∧ s.cfg.ch2Src = .corrected) := by decide

theorem witness_EventsOfAChannelAreTwoTicksApart :
    tickInput (.wrCapen 0 0b1110) = some (.wr .capen 0, 0b1110) ∧ x43.event 0b1110 .ch1 ∧
    padBit x21.capen .ch3 = true ∧ ofChannel x21.ph .ch3 = .charging := by decide

theorem witness_AtMostOneCountEveryTwoTicks :
    (Channel.ch1 ≠ .ch2 ∨ State.reset.cfg.ch2Src = .corrected) ∧ ofChannel State.reset.live .ch1 = 0 := by decide

theorem witness_ChannelTwoAsBuiltAloneCountsAtMostOne :
    let s : State := { State.reset with capen := 0b0010, live := ⟨0, 1, 0, 0⟩, c := ⟨0, 1, 0, 0⟩ }
    s.cfg.ch2Src = .asBuilt ∧ s.live.ch1 = 0 ∧ s.live.ch2.toNat ≤ 1 ∧ s.c.ch2.toNat ≤ 1 ∧
      AlongRun (fun u => padBit u.capen .ch1 = false) [.idle 0, .reset] s := by
  intro s
  have h : padBit s.capen .ch1 = false := by decide
  exact ⟨by decide, by decide, by decide, by decide, alongRun_cons h rfl (alongRun_cons h rfl (padBit_zero .ch1))⟩

/-- Two states that share only channel 2's bits and channel 1's count. -/
theorem witness_ChannelsAreIndependent :
    let s : State := { x43 with cnt := 1, capen := 0b0010 }
    let s' : State := { x43 with cnt := 9, capen := 0b1110, live := ⟨7, 0, 5, 6⟩ }
    tickInput (.idle 0b1101) = some (.idle, 0b1101) ∧ tickInput (.wrO 3 0b0001) = some (.wr .o 3, 0b0001) ∧
    padBit s.capen .ch2 = padBit s'.capen .ch2 ∧ ofChannel s.ph .ch2 = ofChannel s'.ph .ch2 ∧
    padBit 0b1101 .ch2 = padBit 0b0001 .ch2 ∧ (s.latchTick ↔ s'.latchTick) ∧
    ofChannel s.live .ch2 = ofChannel s'.live .ch2 ∧ s.cfg.ch2Src = s'.cfg.ch2Src ∧ s.live.ch1 = s'.live.ch1 := by decide

theorem witness_PadOutputsFollowTheMode : padBit x21.capen .ch4 = true ∧ padBit x21.capen .ch1 = false := by decide

theorem witness_InputMirrorFollowsThePad :
    tickInput (.wrI 15 0b0101) = some (.wr .i 15, 0b0101) ∧ padBit x21.capen .ch1 = false := by decide

/-- Vector V20, ticks 1 to 3: the sensed level 1010 is what the pads are told after `wr O, 10`. -/
theorem witness_WrittenOutputComesBackAsInput :
    let s : State := { State.reset with oe := 0b1111 }
    s.capen = 0 ∧ s.oe = 0b1111 ∧ tickInput (.idle 0b1010) = some (.idle, 0b1010) ∧
    padsOfTick (exec (.idle 0b1010) (writeTick .o 10 s 0)) = some (0b1010, 0b1111) := by decide

theorem witness_UnspecifiedInputBitsInfluenceNothingElse :
    padBit x21.capen .ch1 = false ∧ tickInput (.rdC1 3) = some (.rd .c1, 3) ∧ Reg.c1 ≠ .i := by decide

/-- The hypotheses of the invariant: a legal state with the largest values of `W = 20`, and its step. -/
theorem witness_EveryStepKeepsTheStateLegal :
    let s : State := { given x43 0x24 0 0 with cper := 2 ^ 20 - 1, cnt := 2 ^ 20 - 1 }
    s.legal ∧ (nextOf (step s)).isSome = true := by decide

theorem witness_ResetStateIsLegal : ({ w := 20, ch2Src := .corrected, cperReset := 0xFFFFF } : Config).ok := by decide

end Sys2Proof.Tests
end

/-!
PROOFS. The statements of spec/00_scope.md: the numbering of channels and registers (R12, R60), and what `W ≥ 20` decides: such an
instance starts legal, and one below it is refused (R9, R37).
-/
namespace Sys2Proof.Machine

/-! ### What `W` decides -/

/-- Twenty bits or fewer fit every instance inside the spec (R9): the reset value of `CPER` is such a word. -/
theorem toNat_lt_two_pow_w {cfg : Config} {m : Nat} (hok : cfg.ok) (hm : m ≤ Config.minW) (v : BitVec m) :
    v.toNat < 2 ^ cfg.w :=
  v.isLt.trans_le (Nat.pow_le_pow_right (by decide) (hm.trans hok))

theorem step_of_not_ok {s : State} (h : ¬ s.cfg.ok) : step s = .refused (.widthBelowTwenty s.cfg.w) := if_neg h

theorem not_ok_of_lt_twenty {cfg : Config} (h : cfg.w < 20) : ¬ cfg.ok := Nat.not_le_of_gt h

theorem byDefault_ok : Config.byDefault.ok := by decide

/-- Of the reset values only `CPER`'s depends on the instance; `cnt` is 0 and no tick has driven the read port yet (R37). -/
theorem resetOf_legal {cfg : Config} (hok : cfg.ok) : (State.resetOf cfg).legal := by
  have hcper : (State.resetOf cfg).cper < 2 ^ cfg.w := toNat_lt_two_pow_w hok le_rfl cfg.cperReset
  have hcnt : (State.resetOf cfg).cnt < 2 ^ cfg.w := Nat.two_pow_pos cfg.w
  exact ⟨hok, hcper, hcnt, rfl⟩

end Sys2Proof.Machine

/-! ### The settled statements -/

namespace Sys2Proof.Proofs
open Sys2Proof.Machine

/-- Settles O1: each conjunct is one row of `padIndex`, `Reg.index`, `Instr.ofRead` or `Instr.ofWrite`. -/
theorem channelsAndRegistersAreNumberedAsTheSpecSays : Obligations.ChannelsAndRegistersAreNumberedAsTheSpecSays := by
  unfold Obligations.ChannelsAndRegistersAreNumberedAsTheSpecSays
  refine ⟨fun _ => ⟨rfl, rfl, rfl, rfl⟩, rfl, rfl, rfl, rfl, rfl, rfl, rfl, rfl, rfl, fun v s => ?_⟩
  simp only [Instr.ofRead, Instr.ofWrite, and_self]

/-- Settles O10: `W < 20` is the failing branch of the test `step` begins with. -/
theorem instancesBelowTwentyBitsAreRefused : Obligations.InstancesBelowTwentyBitsAreRefused := by
  unfold Obligations.InstancesBelowTwentyBitsAreRefused
  intro s hw
  exact step_of_not_ok (not_ok_of_lt_twenty hw)

/-- Settles O41, from `resetOf_legal`; `State.reset` is its default instance. -/
theorem resetStateIsLegal : Obligations.ResetStateIsLegal := by
  unfold Obligations.ResetStateIsLegal
  exact ⟨resetOf_legal byDefault_ok, fun _ hok => resetOf_legal hok⟩

end Sys2Proof.Proofs

/-!
PROOFS. The statements of spec/10_state.md: the reset values (R37), the phase flags (R30, R36), and the legal state (R26, R28, R36)
that every step keeps.
-/
namespace Sys2Proof.Machine

/-! ### The reset state -/

theorem ofChannel_mk_same {α : Type} (a : α) (n : Channel) : ofChannel ⟨a, a, a, a⟩ n = a := by cases n <;> rfl

/-- The reset values say nothing of the model's own fields. -/
theorem InResetState.with_modelFields {s : State} (h : InResetState s) (inputs : List StepInput) (draws : Nat)
    (out : Option StepOutput) : InResetState { s with inputs := inputs, draws := draws, out := out } where
  o := h.o
  oe := h.oe
  i := h.i
  capen := h.capen
  cper := h.cper
  c := h.c
  cnt := h.cnt
  live := h.live
  ph := h.ph

theorem inResetState_resetOf (cfg : Config) : InResetState (State.resetOf cfg) where
  o := rfl
  oe := rfl
  i := rfl
  capen := rfl
  cper := rfl
  c := ofChannel_mk_same 0
  cnt := rfl
  live := ofChannel_mk_same 0
  ph := ofChannel_mk_same Phase.sensing

theorem inResetState_resetTick (s : State) : InResetState (resetTick s) :=
  (inResetState_resetOf s.cfg).with_modelFields _ _ _

theorem resetTick_cper_eq_of_cperReset {s : State} (h : s.cfg.cperReset = 524288) : (resetTick s).cper = 524288 := by
  rw [resetTick_cper, h]; rfl

/-! ### The phase after a tick -/

theorem nextPh_event {s : State} {sense : Pads} {n : Channel} (h : s.event sense n) : nextPh s sense n = .charging := by
  obtain ⟨hen, hph, hlow⟩ := h
  rw [nextPh_sensing sense hen hph, hlow]; rfl

theorem ofChannel_opTick_ph (op : HostOp) (s : State) (sense : Pads) (n : Channel) :
    ofChannel (opTick op s sense).ph n = nextPh s sense n := by
  rw [opTick_ph, ofChannel_perChannel]

theorem not_event_of_charging {s : State} {n : Channel} (h : ofChannel s.ph n = .charging) (sense : Pads) :
    ¬ s.event sense n := by
  rintro ⟨_, hph, _⟩
  exact Phase.noConfusion (hph.symm.trans h)

/-! ### Legal states -/

theorem consume_legal {s : State} (h : s.legal) : (consume s).legal := h

theorem nextCnt_lt {s : State} (h : s.legal) : nextCnt s < 2 ^ s.cfg.w := by
  obtain ⟨_, hcper, hcnt, _⟩ := h
  exact (nextCnt_le s).trans_lt (max_lt hcnt hcper)

theorem opRdata_lt {s : State} (h : s.legal) (op : HostOp) : opRdata op s < 2 ^ s.cfg.w := by
  obtain ⟨hok, hcper, _, _⟩ := h
  cases op with
  | rd r => exact regRead_lt hok hcper r
  | idle => exact freeRdata_lt s
  | wr r v => exact freeRdata_lt s

/-- `CPER` holds its value, or takes one that `WR.CPER` cut to `W` bits (R101). -/
theorem opTick_cper_lt {s : State} (h : s.cper < 2 ^ s.cfg.w) (op : HostOp) (sense : Pads) :
    (opTick op s sense).cper < 2 ^ s.cfg.w := by
  rw [opTick_cper]
  split
  · exact truncW_lt _ _
  · exact h

theorem opTick_legal {s : State} (h : s.legal) (op : HostOp) (sense : Pads) : (opTick op s sense).legal := by
  have hcnt := nextCnt_lt h
  have hout := opRdata_lt h op
  obtain ⟨hok, hcper, _, _⟩ := h
  refine ⟨?_, ?_, ?_, ?_⟩
  · rwa [opTick_cfg]
  · rw [opTick_cfg]
    exact opTick_cper_lt hcper op sense
  · rwa [opTick_cfg, opTick_cnt]
  · rw [opTick_cfg, opTick_out]
    exact decide_eq_true hout

theorem resetTick_legal {s : State} (hok : s.cfg.ok) : (resetTick s).legal := by
  obtain ⟨_, hcper, hcnt, _⟩ := resetOf_legal hok
  exact ⟨hok, hcper, hcnt, decide_eq_true (freeRdata_lt s)⟩

theorem exec_preserves_legal {i : Instr} {s t : State} (h : s.legal) (ht : exec i s = .next t) : t.legal := by
  obtain ⟨_, hreset⟩ | ⟨op, sense, _, hop⟩ := exec_cases i s
  · obtain rfl : resetTick s = t := Host.Outcome.next.inj (hreset.symm.trans ht)
    exact resetTick_legal h.1
  · obtain rfl : opTick op s sense = t := Host.Outcome.next.inj (hop.symm.trans ht)
    exact opTick_legal h op sense

theorem exec_preserves_cfg {i : Instr} {s t : State} (ht : exec i s = .next t) : t.cfg = s.cfg := by
  obtain ⟨u, hu, hcfg, _⟩ := exec_completes i s
  obtain rfl : u = t := Host.Outcome.next.inj (hu.symm.trans ht)
  exact hcfg

/-- Inversion of `step` (R180): a step that answers a state ran one decoded operation of an instance inside the spec. -/
theorem exec_of_step_eq_next {s t : State} (h : step s = .next t) :
    s.cfg.ok ∧ ∃ i, decode (fetch s) = .ok i ∧ exec i (consume s) = .next t := by
  unfold step at h
  split at h
  · next hok =>
    split at h
    · next i hi => exact ⟨hok, i, hi, h⟩
    · cases h
  · cases h

end Sys2Proof.Machine

/-! ### The settled statements -/

namespace Sys2Proof.Proofs
open Sys2Proof.Machine

/-- Settles O40: a completed step is `exec` of one operation on the state without the consumed input, and `exec` keeps states legal. -/
theorem everyStepKeepsTheStateLegal : Obligations.EveryStepKeepsTheStateLegal := by
  unfold Obligations.EveryStepKeepsTheStateLegal
  intro s t hlegal hstep
  obtain ⟨_, i, _, hexec⟩ := exec_of_step_eq_next hstep
  exact ⟨exec_preserves_legal (consume_legal hlegal) hexec, (exec_preserves_cfg hexec).trans (consume_cfg s)⟩

/-- Settles O32: an event leaves the channel Charging, and a Charging channel has no event. -/
theorem eventsOfAChannelAreTwoTicksApart : Obligations.EventsOfAChannelAreTwoTicksApart := by
  unfold Obligations.EventsOfAChannelAreTwoTicksApart
  intro s i op sense n hi
  have hph := ofChannel_opTick_ph op s sense n
  refine ⟨_, exec_of_tickInput hi s, fun hen hch => ?_, fun hev later => ?_⟩
  · exact hph.trans (nextPh_charging sense hen hch)
  · exact not_event_of_charging (hph.trans (nextPh_event hev)) later

/-- Settles O11: power-on and `RESET` agree on the nine elements, which `inResetState_resetOf` lists. -/
theorem resetStateHoldsTheResetValues : Obligations.ResetStateHoldsTheResetValues := by
  unfold Obligations.ResetStateHoldsTheResetValues
  refine ⟨fun cfg => ⟨inResetState_resetOf cfg, rfl⟩, ⟨inResetState_resetOf _, rfl⟩, fun s => ?_⟩
  exact ⟨_, exec_reset s, inResetState_resetTick s, resetTick_cfg s, resetTick_cper_eq_of_cperReset⟩

end Sys2Proof.Proofs

/-!
PROOFS. The statements of spec/20_memory.md: the width of a written value (R64), rewriting the held value (R66), and what the tick of an
access and the tick after it see (R69, R70).
-/
namespace Sys2Proof.Machine

/-! ### The width of a written value -/

@[simp] theorem truncPads_mod_sixteen (v : Nat) : truncPads (v % 16) = truncPads v := by
  apply BitVec.eq_of_toNat_eq
  rw [toNat_truncPads, toNat_truncPads, Nat.mod_mod]

@[simp] theorem truncPads_zextW (p : Pads) : truncPads (zextW p) = p := by
  simp [truncPads, zextW]

@[simp] theorem truncW_mod (cfg : Config) (v : Nat) : truncW cfg (v % 2 ^ cfg.w) = truncW cfg v := Nat.mod_mod _ _

theorem truncW_of_lt {cfg : Config} {v : Nat} (h : v < 2 ^ cfg.w) : truncW cfg v = v := Nat.mod_eq_of_lt h

/-- Every writable register but `CPER` has four bits. -/
theorem regWrite_mod_sixteen {r : Reg} (hr : r ≠ .cper) (v : Nat) (s : State) : regWrite r (v % 16) s = regWrite r v s := by
  cases r
  case cper => exact absurd rfl hr
  case o | oe | capen => simp only [regWrite, truncPads_mod_sixteen]
  case i | c1 | c2 | c3 | c4 => rfl

theorem regWrite_cper_mod (v : Nat) (s : State) : regWrite .cper (v % 2 ^ s.cfg.w) s = regWrite .cper v s := by
  simp [regWrite]

/-- The data of a write matters only through what `regWrite` stores of it (R101). -/
theorem exec_write_congr {i j : Instr} {r : Reg} {v v' : Nat} {s : State} {sense : Pads}
    (hi : tickInput i = some (.wr r v, sense)) (hj : tickInput j = some (.wr r v', sense))
    (h : regWrite r v (idleTick s sense) = regWrite r v' (idleTick s sense)) : exec i s = exec j s := by
  rw [exec_of_tickInput hi, exec_of_tickInput hj]
  exact congrArg Host.Outcome.next h

/-- A write of the value the register holds before the tick is an idle tick (R66), for the read-only registers too. -/
theorem writeTick_regRead {s : State} (h : s.cper < 2 ^ s.cfg.w) (r : Reg) (sense : Pads) :
    writeTick r (regRead s r) s sense = idleTick s sense := by
  cases r
  case o | oe | capen => simp only [writeTick, regRead, regWrite, truncPads_zextW]; rfl
  case cper => simp only [writeTick, regRead, regWrite, idleTick, blockTick_cfg, truncW_of_lt h]; rfl
  case i | c1 | c2 | c3 | c4 => rfl

/-! ### The block's own update meets R183 -/

theorem liveSrc_eq_ite (s : State) (n : Channel) :
    liveSrc s n = if n = .ch2 ∧ s.cfg.ch2Src = .asBuilt then s.live.ch1 else ofChannel s.live n := by
  split
  · next h =>
    obtain ⟨rfl, hsrc⟩ := h
    exact liveSrc_ch2_asBuilt hsrc
  · next h =>
    refine liveSrc_own ?_
    cases hsrc : s.cfg.ch2Src with
    | asBuilt => exact .inl fun hn => h ⟨hn, hsrc⟩
    | corrected => exact .inr rfl

/-- R155 over the numbers: the clear of a latch first, then the wrapping increment of an event (R134, R157). -/
theorem toNat_nextLive (s : State) (sense : Pads) (n : Channel) :
    (nextLive s sense n).toNat =
      if s.latchTick then 0
      else if s.event sense n then ((liveSrc s n).toNat + 1) % 256
      else (ofChannel s.live n).toNat := by
  by_cases hl : s.latchTick
  · rw [if_pos hl, nextLive_latch sense ((latch_iff s).mpr hl)]; rfl
  · have hlatch : latch s = false := Bool.eq_false_iff.mpr (mt (latch_iff s).mp hl)
    rw [if_neg hl]
    by_cases he : s.event sense n
    · rw [if_pos he, nextLive_event hlatch ((ev_iff s sense n).mpr he), BitVec.toNat_add]; rfl
    · rw [if_neg he, nextLive_hold hlatch (Bool.eq_false_iff.mpr (mt (ev_iff s sense n).mp he))]

/-- R161: a channel in cap mode is Charging after the tick of an event only. -/
theorem nextPh_eq_ite (s : State) (sense : Pads) (n : Channel) :
    nextPh s sense n =
      if padBit s.capen n = false then ofChannel s.ph n else if s.event sense n then .charging else .sensing := by
  by_cases hdis : padBit s.capen n = false
  · rw [if_pos hdis, nextPh_disabled sense hdis]
  · have hen : padBit s.capen n = true := Bool.eq_true_of_not_eq_false hdis
    rw [if_neg hdis]
    by_cases hev : s.event sense n
    · rw [if_pos hev, nextPh_event hev]
    · rw [if_neg hev]
      cases hph : ofChannel s.ph n with
      | charging => exact nextPh_charging sense hen hph
      | sensing =>
        have hhigh : padBit sense n = true := Bool.eq_true_of_not_eq_false fun hlow => hev ⟨hen, hph, hlow⟩
        rw [nextPh_sensing sense hen hph, if_pos hhigh]

theorem nextC_eq_ite (s : State) (n : Channel) :
    nextC s n = if s.latchTick then ofChannel s.live n else ofChannel s.c n :=
  if_congr (latch_iff s) rfl rfl

theorem nextCnt_eq_ite (s : State) :
    nextCnt s = if s.capen = 0 then s.cnt else if s.cnt ≠ 0 then s.cnt - 1 else s.cper := by
  by_cases hen : s.capen = 0
  · rw [if_pos hen, nextCnt_inert hen]
  · rw [if_neg hen]
    by_cases hcnt : s.cnt = 0
    · rw [if_neg (not_not.mpr hcnt), nextCnt_latch hen hcnt]
    · rw [if_pos hcnt, nextCnt_count hen hcnt]

/-- The tick of every operation but `RESET` is the block's part of R183, whatever the host part is. -/
theorem blockTick_opTick (op : HostOp) (s : State) (sense : Pads) : BlockTick s sense (opTick op s sense) where
  cnt := by rw [opTick_cnt, nextCnt_eq_ite]
  c n := by rw [opTick_c, ofChannel_perChannel, nextC_eq_ite]
  live n := by rw [opTick_live, ofChannel_perChannel, toNat_nextLive, liveSrc_eq_ite]
  ph n := by rw [ofChannel_opTick_ph, nextPh_eq_ite]
  mirror n hdis := by rw [opTick_i, padBit_nextI, hdis]; rfl
  pads := ⟨_, opTick_out op s sense, padBit_padO s, fun n => by rw [outputs_padOe, padBit_padOe, phaseBit_eq_decide]⟩
  cfg := opTick_cfg op s sense
  inputs := opTick_inputs op s sense

/-! ### Operations that hold the host-writable registers, and reads -/

theorem runsHoldingHostRegs_of_idleTick {i : Instr} {s : State} {sense : Pads} (h : exec i s = .next (idleTick s sense)) :
    RunsHoldingHostRegs i s sense :=
  ⟨_, h, blockTick_opTick .idle s sense, rfl, rfl, rfl, rfl⟩

theorem runsReading_of_regRead {i : Instr} {r : Reg} {s : State} {sense : Pads} {v : Nat}
    (hi : tickInput i = some (.rd r, sense)) (hv : regRead s r = v) : RunsReading i s sense v :=
  ⟨_, exec_of_tickInput hi s, blockTick_opTick _ s sense, ⟨rfl, rfl, rfl, rfl⟩, congrArg some hv⟩

theorem RunsReading.answers {i : Instr} {s : State} {sense : Pads} {v : Nat} (h : RunsReading i s sense v) :
    ∃ t, exec i s = .next t ∧ t.out.map StepOutput.rdata = some v := by
  obtain ⟨t, ht, _, _, hv⟩ := h
  exact ⟨t, ht, hv⟩

theorem runsHoldingHostRegs_of_write_held {i : Instr} {r : Reg} {s : State} {sense : Pads} (h : s.cper < 2 ^ s.cfg.w)
    (hi : tickInput i = some (.wr r (regRead s r), sense)) : RunsHoldingHostRegs i s sense :=
  runsHoldingHostRegs_of_idleTick ((exec_of_tickInput hi s).trans (congrArg _ (writeTick_regRead h r sense)))

/-- `RESET` included: the pads of a tick are functions of its pre-tick state (R170, R171, R184). -/
theorem exec_drives_pads (i : Instr) (s : State) :
    ∃ t y, exec i s = .next t ∧ t.out = some y ∧ y.padO = padO s ∧ y.padOe = padOe s := by
  obtain ⟨_, hexec⟩ | ⟨op, sense, _, hexec⟩ := exec_cases i s
  · exact ⟨_, _, hexec, resetTick_out s, rfl, rfl⟩
  · exact ⟨_, _, hexec, opTick_out op s sense, rfl, rfl⟩

/-! ### The tick after an access -/

theorem padBit_padO_after_o_write {s : State} {n : Channel} (v : Nat) (sense : Pads) (hdis : padBit s.capen n = false) :
    padBit (padO (opTick (.wr .o v) s sense)) n = v.testBit (padIndex n) := by
  rw [padBit_padO, opTick_capen, opTick_o, hdis]
  exact padBit_truncPads v n

theorem padBit_padOe_after_oe_write {s : State} {n : Channel} (v : Nat) (sense : Pads) (hdis : padBit s.capen n = false) :
    padBit (padOe (opTick (.wr .oe v) s sense)) n = v.testBit (padIndex n) := by
  rw [padBit_padOe, opTick_capen, opTick_oe, hdis]
  exact padBit_truncPads v n

theorem padBit_padO_after_capen_write (v : Nat) (s : State) (sense : Pads) (n : Channel) :
    padBit (padO (opTick (.wr .capen v) s sense)) n = (v.testBit (padIndex n) || padBit s.o n) := by
  rw [padBit_padO, opTick_capen, opTick_o, padBit_truncPads]
  cases v.testBit (padIndex n) <;> rfl

/-- The phase is the one the write's own tick left, so a channel enabled by the write shows its held phase (R159). -/
theorem padBit_padOe_after_capen_write (v : Nat) (s : State) (sense : Pads) (n : Channel) :
    padBit (padOe (opTick (.wr .capen v) s sense)) n =
      if v.testBit (padIndex n) then decide (ofChannel (opTick (.wr .capen v) s sense).ph n = .charging)
      else padBit s.oe n := by
  rw [padBit_padOe, phaseBit_eq_decide, opTick_capen, opTick_oe, padBit_truncPads]

/-- The first latch after a write of `CPER` reloads the written value, even on the very next tick (R69, R132). -/
theorem opTick_cnt_after_cper_write {op : HostOp} {v : Nat} {s : State} {a c : Pads}
    (hl : (opTick (.wr .cper v) s a).latchTick) : (opTick op (opTick (.wr .cper v) s a) c).cnt = v % 2 ^ s.cfg.w := by
  obtain ⟨hen, hcnt⟩ := hl
  rw [opTick_cnt, nextCnt_latch hen hcnt, opTick_cper]
  rfl

/-- Two reads of channel `n`'s count, the first on a latch tick: the old count, then the live count that was latched (R70). -/
theorem reads_of_count_around_latch {i j : Instr} {r : Reg} {n : Channel} {s : State} {a b : Pads} (hl : s.latchTick)
    (hr : ∀ u, regRead u r = (ofChannel u.c n).toNat) (hi : tickInput i = some (.rd r, a))
    (hj : tickInput j = some (.rd r, b)) :
    ∃ t, exec i s = .next t ∧ t.out.map StepOutput.rdata = some (ofChannel s.c n).toNat ∧
      RunsReading j t b (ofChannel s.live n).toNat := by
  have hlatched : regRead (opTick (.rd r) s a) r = (ofChannel s.live n).toNat := by
    rw [hr, opTick_c, ofChannel_perChannel, nextC_latch ((latch_iff s).mpr hl)]
  exact ⟨_, exec_of_tickInput hi s, congrArg some (hr s), runsReading_of_regRead hj hlatched⟩

end Sys2Proof.Machine

/-! ### The settled statements -/

namespace Sys2Proof.Proofs
open Sys2Proof.Machine

/-- Settles O17: only `regWrite` looks at the data of a write, and it cuts the value to the register's width. -/
theorem overwideWriteDataIsMasked : Obligations.OverwideWriteDataIsMasked := by
  unfold Obligations.OverwideWriteDataIsMasked
  intro s v sense
  have cut {r : Reg} (hr : r ≠ .cper) := (regWrite_mod_sixteen hr v (idleTick s sense)).symm
  exact ⟨exec_write_congr rfl rfl (cut (by decide)), exec_write_congr rfl rfl (cut (by decide)),
    exec_write_congr rfl rfl (cut (by decide)), exec_write_congr rfl rfl (regWrite_cper_mod v (idleTick s sense)).symm⟩

/-- Settles O18: the value held is what `regRead` answers, and a write of that is an idle tick. -/
theorem rewritingTheHeldValueIsAnIdleTick : Obligations.RewritingTheHeldValueIsAnIdleTick := by
  unfold Obligations.RewritingTheHeldValueIsAnIdleTick
  intro s sense hcper
  exact ⟨runsHoldingHostRegs_of_write_held hcper rfl, runsHoldingHostRegs_of_write_held hcper rfl,
    runsHoldingHostRegs_of_write_held hcper rfl, runsHoldingHostRegs_of_write_held hcper rfl⟩

/-- Settles O19: the state after the write holds the cut value in one register, and the next tick's read, pads and block update are
functions of that state. -/
theorem writesAreUsedFromTheNextTick : Obligations.WritesAreUsedFromTheNextTick := by
  unfold Obligations.WritesAreUsedFromTheNextTick
  intro s v a b
  have hwritten : (truncPads v).toNat = v % 16 := toNat_truncPads v
  refine ⟨?o, ?oe, ?capen, ?cper⟩
  case o =>
    refine ⟨opTick (.wr .o v) s a, rfl, blockTick_opTick _ s a, runsReading_of_regRead rfl hwritten, fun i => ?_⟩
    obtain ⟨u, y, hu, hy, hpadO, _⟩ := exec_drives_pads i (opTick (.wr .o v) s a)
    exact ⟨u, y, hu, hy, fun n hdis => hpadO ▸ padBit_padO_after_o_write v a hdis⟩
  case oe =>
    refine ⟨opTick (.wr .oe v) s a, rfl, blockTick_opTick _ s a, runsReading_of_regRead rfl hwritten, fun i => ?_⟩
    obtain ⟨u, y, hu, hy, _, hpadOe⟩ := exec_drives_pads i (opTick (.wr .oe v) s a)
    exact ⟨u, y, hu, hy, fun n hdis => hpadOe ▸ padBit_padOe_after_oe_write v a hdis⟩
  case capen =>
    refine ⟨opTick (.wr .capen v) s a, rfl, blockTick_opTick _ s a, runsReading_of_regRead rfl hwritten, fun i => ?_, rfl,
      fun i op c hi => ⟨_, exec_of_tickInput hi _, blockTick_opTick op _ c⟩⟩
    obtain ⟨u, y, hu, hy, hpadO, hpadOe⟩ := exec_drives_pads i (opTick (.wr .capen v) s a)
    exact ⟨u, y, hu, hy, fun n =>
      ⟨hpadO ▸ padBit_padO_after_capen_write v s a n, hpadOe ▸ padBit_padOe_after_capen_write v s a n⟩⟩
  case cper =>
    exact ⟨opTick (.wr .cper v) s a, rfl, blockTick_opTick _ s a, runsReading_of_regRead rfl rfl, fun i op c hi =>
      ⟨_, exec_of_tickInput hi _, blockTick_opTick op _ c, opTick_cnt_after_cper_write⟩⟩

/-- Settles O20: the read port answers from the pre-tick state, and a latch tick copies the live counts into it. -/
theorem readsOnALatchTickAnswerTheOldCount : Obligations.ReadsOnALatchTickAnswerTheOldCount := by
  unfold Obligations.ReadsOnALatchTickAnswerTheOldCount
  intro s a b hl
  exact ⟨reads_of_count_around_latch (n := .ch1) hl (fun _ => rfl) rfl rfl,
    reads_of_count_around_latch (n := .ch2) hl (fun _ => rfl) rfl rfl,
    reads_of_count_around_latch (n := .ch3) hl (fun _ => rfl) rfl rfl,
    reads_of_count_around_latch (n := .ch4) hl (fun _ => rfl) rfl rfl,
    (runsReading_of_regRead (r := .i) rfl rfl).answers⟩

end Sys2Proof.Proofs

/-!
PROOFS. The statements of spec/30_encoding.md: the decoding order and its counts (R82, R84), the reserved words (R87), decode after
encode (R81, R83, R88), and the step of a decoded input (R80).
-/
namespace Sys2Proof.Machine

@[simp] theorem tickInput_ofRead (r : Reg) (s : Pads) : tickInput (Instr.ofRead r s) = some (.rd r, s) := by cases r <;> rfl

@[simp] theorem tickInput_ofWrite (r : Reg) (v : Nat) (s : Pads) : tickInput (Instr.ofWrite r v s) = some (.wr r v, s) := by
  cases r <;> rfl

/-- The decoded input record (R14) determines the operation. -/
theorem eq_of_tickInput {i : Instr} {op : HostOp} {s : Pads} (h : tickInput i = some (op, s)) :
    i = match op with
      | .idle => .idle s
      | .rd r => Instr.ofRead r s
      | .wr r v => Instr.ofWrite r v s := by
  cases i <;> cases h <;> rfl

end Sys2Proof.Machine

namespace Sys2Proof

/-! ### The decoder -/

/-- Inversion of `decode`: the four cases of R82, in its order. -/
theorem decode_cases (inp : StepInput) :
    (ctlRst inp.ctl = true ∧ decode inp = .ok .reset) ∨
    (ctlRst inp.ctl = false ∧ ctlV inp.ctl = false ∧ decode inp = .ok (.idle inp.sense)) ∨
    (ctlRst inp.ctl = false ∧ ctlV inp.ctl = true ∧ ∃ r, Reg.ofIndex (ctlIdx inp.ctl) = some r ∧
      decode inp = .ok (if ctlWe inp.ctl then Instr.ofWrite r inp.wdata inp.sense else Instr.ofRead r inp.sense)) ∨
    (ctlRst inp.ctl = false ∧ ctlV inp.ctl = true ∧ Reg.ofIndex (ctlIdx inp.ctl) = none ∧
      decode inp = .error (.reservedIndex inp.ctl)) := by
  cases hr : ctlRst inp.ctl with
  | true => exact .inl ⟨rfl, decode_of_rst hr⟩
  | false =>
    refine .inr ?_
    cases hv : ctlV inp.ctl with
    | false => exact .inl ⟨rfl, rfl, decode_of_idle hr hv⟩
    | true =>
      refine .inr ?_
      cases hi : Reg.ofIndex (ctlIdx inp.ctl) with
      | some r => exact .inl ⟨rfl, rfl, r, rfl, decode_of_access hr hv hi⟩
      | none => exact .inr ⟨rfl, rfl, rfl, decode_of_reserved hr hv hi⟩

theorem ofIndex_ctlIdx {c : Ctl} {r : Reg} (h : c.toNat % 16 = r.index) : Reg.ofIndex (ctlIdx c) = some r :=
  (congrArg Reg.ofIndex h).trans (Reg.ofIndex_index r)

theorem exists_decode_error_iff (inp : StepInput) :
    (∃ e, decode inp = .error e) ↔ ctlRst inp.ctl = false ∧ ctlV inp.ctl = true ∧ Reg.ofIndex (ctlIdx inp.ctl) = none := by
  constructor
  · rintro ⟨e, he⟩
    obtain ⟨_, hd⟩ | ⟨_, _, hd⟩ | ⟨_, _, _, _, hd⟩ | ⟨hr, hv, hi, _⟩ := decode_cases inp
    · cases he.symm.trans hd
    · cases he.symm.trans hd
    · cases he.symm.trans hd
    · exact ⟨hr, hv, hi⟩
  · rintro ⟨hr, hv, hi⟩
    exact ⟨_, decode_of_reserved hr hv hi⟩

/-- R82's test for a reserved word against the two ranges R87 lists, over all 128 control words. -/
theorem reserved_word_iff : ∀ c : Ctl, (ctlRst c = false ∧ ctlV c = true ∧ Reg.ofIndex (ctlIdx c) = none) ↔
    (0x29 ≤ c.toNat ∧ c.toNat ≤ 0x2F) ∨ (0x39 ≤ c.toNat ∧ c.toNat ≤ 0x3F) := by decide

/-- R87: each word of the two ranges is invalid, under its own name. -/
theorem decode_of_reserved_word {c : Ctl} (v : Nat) (s : Pads)
    (h : (0x29 ≤ c.toNat ∧ c.toNat ≤ 0x2F) ∨ (0x39 ≤ c.toNat ∧ c.toNat ≤ 0x3F)) :
    decode ⟨c, v, s⟩ = .error (.reservedIndex c) := by
  obtain ⟨hr, hv, hi⟩ := (reserved_word_iff c).mpr h
  exact decode_of_reserved hr hv hi

/-! ### Counting control words by kind -/

/-- The value for the kind of a control word: the four cases of R82. -/
def byKind {α : Type} (reset idle access reserved : α) (c : Ctl) : α :=
  if ctlRst c then reset
  else if ctlV c then
    if (Reg.ofIndex (ctlIdx c)).isSome then access else reserved
  else idle

/-- `p` looks at the kind of what was decoded only, and answers as given. -/
structure TestsKind (p : Except DecodeError Instr → Bool) (reset idle access reserved : Bool) : Prop where
  reset : p (.ok .reset) = reset
  idle : ∀ s, p (.ok (.idle s)) = idle
  access : ∀ r v s (we : Bool), p (.ok (if we then Instr.ofWrite r v s else Instr.ofRead r s)) = access
  reserved : ∀ e, p (.error e) = reserved

theorem TestsKind.decode_eq {p : Except DecodeError Instr → Bool} {reset idle access reserved : Bool}
    (h : TestsKind p reset idle access reserved) (inp : StepInput) :
    p (decode inp) = byKind reset idle access reserved inp.ctl := by
  obtain ⟨hr, hd⟩ | ⟨hr, hv, hd⟩ | ⟨hr, hv, r, hi, hd⟩ | ⟨hr, hv, hi, hd⟩ := decode_cases inp
  · simp [byKind, hd, hr, h.reset]
  · simp [byKind, hd, hr, hv, h.idle]
  · simp [byKind, hd, hr, hv, hi, h.access]
  · simp [byKind, hd, hr, hv, hi, h.reserved]

/-- A closed count over the 128 control words for each choice of the answers. -/
theorem countP_byKind : ∀ reset idle access reserved : Bool,
    (List.range 128).countP (fun k => byKind reset idle access reserved (BitVec.ofNat 7 k)) =
      64 * reset.toNat + 32 * idle.toNat + 18 * access.toNat + 14 * reserved.toNat := by
  intro reset idle access reserved
  cases reset <;> cases idle <;> cases access <;> cases reserved <;> rfl

/-- R82's counts, whatever the operands beside the control words. -/
theorem countP_decode (reset idle access reserved : Bool) {p : Except DecodeError Instr → Bool}
    (h : TestsKind p reset idle access reserved) (v : Nat) (s : Pads) :
    ((List.range 128).map fun k => decode ⟨BitVec.ofNat 7 k, v, s⟩).countP p =
      64 * reset.toNat + 32 * idle.toNat + 18 * access.toNat + 14 * reserved.toNat := by
  rw [List.countP_map, ← countP_byKind]
  exact congrArg (List.countP · (List.range 128)) (funext fun k => h.decode_eq ⟨BitVec.ofNat 7 k, v, s⟩)

/-! ### Operands, and decode after encode -/

@[simp] theorem wdata_ofRead (r : Reg) (s : Pads) : (Instr.ofRead r s).wdata = 0 := by cases r <;> rfl

@[simp] theorem wdata_ofWrite (r : Reg) (v : Nat) (s : Pads) : (Instr.ofWrite r v s).wdata = v := by cases r <;> rfl

/-- An operation carries the write data of its step input or none (R88). -/
theorem wdata_le_of_decode {inp : StepInput} {i : Instr} (h : decode inp = .ok i) : i.wdata ≤ inp.wdata := by
  obtain ⟨_, hd⟩ | ⟨_, _, hd⟩ | ⟨_, _, r, _, hd⟩ | ⟨_, _, _, hd⟩ := decode_cases inp <;> cases h.symm.trans hd
  · exact Nat.zero_le _
  · exact Nat.zero_le _
  · split
    · exact (wdata_ofWrite r _ _).le
    · exact (wdata_ofRead r _).le.trans (Nat.zero_le _)

theorem wellFormed_iff (w : Nat) (i : Instr) : i.wellFormed w = true ↔ i.wdata < 2 ^ w := by
  cases i <;> simp [Instr.wellFormed, Instr.wdata]

theorem encode_ofRead (r : Reg) (s : Pads) : encode (Instr.ofRead r s) = ⟨BitVec.ofNat 7 (0x20 + r.index), 0, s⟩ := by
  cases r <;> rfl

theorem encode_ofWrite (r : Reg) (v : Nat) (s : Pads) :
    encode (Instr.ofWrite r v s) = ⟨BitVec.ofNat 7 (0x30 + r.index), v, s⟩ := by
  cases r <;> rfl

theorem decode_encode_ofRead (r : Reg) (s : Pads) : decode (encode (Instr.ofRead r s)) = .ok (Instr.ofRead r s) := by
  rw [encode_ofRead, Laws.decode_eq_read_iff, ← Laws.read_row]
  cases r <;> rfl

theorem decode_encode_ofWrite (r : Reg) (v : Nat) (s : Pads) :
    decode (encode (Instr.ofWrite r v s)) = .ok (Instr.ofWrite r v s) := by
  rw [encode_ofWrite, Laws.decode_eq_write_iff, ← Laws.write_row]
  cases r <;> rfl

/-- The four kinds of operation, as the table of R84 groups its twenty rows. -/
theorem Instr.kind_cases (i : Instr) :
    i = .reset ∨ (∃ s, i = .idle s) ∨ (∃ r s, i = .ofRead r s) ∨ ∃ r v s, i = .ofWrite r v s := by
  cases hi : Machine.tickInput i with
  | none => exact .inl ((Machine.tickInput_eq_none_iff i).mp hi)
  | some input =>
    obtain ⟨op, s⟩ := input
    refine .inr ?_
    cases op with
    | idle => exact .inl ⟨s, Machine.eq_of_tickInput hi⟩
    | rd r => exact .inr (.inl ⟨r, s, Machine.eq_of_tickInput hi⟩)
    | wr r v => exact .inr (.inr ⟨r, v, s, Machine.eq_of_tickInput hi⟩)

/-- The canonical step input of an operation decodes to it (R84). -/
theorem decode_encode (i : Instr) : decode (encode i) = .ok i := by
  obtain rfl | ⟨s, rfl⟩ | ⟨r, s, rfl⟩ | ⟨r, v, s, rfl⟩ := i.kind_cases
  · exact decode_of_rst rfl
  · exact (Laws.decode_eq_idle_iff 0x00 0 s).mpr (by decide)
  · exact decode_encode_ofRead r s
  · exact decode_encode_ofWrite r v s

theorem decode_onEntry_encode {w : Nat} {i : Instr} (h : i.wellFormed w = true) : decode ((encode i).onEntry w) = .ok i := by
  have hwdata : (encode i).wdata < 2 ^ w := (wellFormed_iff w i).mp h
  rw [onEntry_of_lt hwdata, decode_encode]

/-- `ctl` and `sense` fill the twelve bits below the write data (assumption log 9). -/
theorem toTableWord_lt {w : Nat} {inp : StepInput} (h : inp.wdata < 2 ^ w) : inp.toTableWord < 2 ^ (12 + w) := by
  have hc := inp.ctl.isLt
  have hs : inp.sense.toNat < 16 := inp.sense.isLt
  rw [Nat.pow_add]
  unfold StepInput.toTableWord
  omega

theorem decodeTableWord_toTableWord {nbits : Nat} {inp : StepInput} {i : Instr} (hfit : inp.toTableWord < 2 ^ nbits)
    (hd : decode inp = .ok i) : decodeTableWord nbits inp.toTableWord = some i := by
  simp only [decodeTableWord, ofTableWord_toTableWord inp hfit, hd]

end Sys2Proof

namespace Sys2Proof.Machine

/-! ### One step -/

theorem fetch_of_cons {s : State} {inp : StepInput} {rest : List StepInput} (h : s.inputs = inp :: rest) :
    fetch s = inp.onEntry s.cfg.w := by
  simp only [fetch, h]

theorem fetch_of_nil {s : State} (h : s.inputs = []) :
    fetch s = StepInput.onEntry s.cfg.w ⟨Config.envCtl s.draws, Config.envWdata s.draws, Config.envSense s.draws⟩ := by
  simp only [fetch, h]

theorem consume_of_tail {s : State} {rest : List StepInput} (h : s.inputs.tail = rest) :
    consume s = { s with inputs := rest } := by
  rw [consume, h]

theorem step_of_decode {s : State} {i : Instr} (hok : s.cfg.ok) (h : decode (fetch s) = .ok i) :
    step s = exec i (consume s) := by
  simp only [step, if_pos hok, h]

theorem step_of_reserved {s : State} {c : Ctl} (hok : s.cfg.ok) (h : decode (fetch s) = .error (.reservedIndex c)) :
    step s = .refused (.reservedControlWord c) := by
  simp only [step, if_pos hok, h]

/-- A step looks at the queue only through the input it takes and the state without that input. -/
theorem step_congr {s t : State} (hf : fetch s = fetch t) (hc : consume s = consume t) : step s = step t := by
  have hcfg : (consume s).cfg = (consume t).cfg := congrArg State.cfg hc
  rw [consume_cfg, consume_cfg] at hcfg
  rw [step, step, hf, hc, hcfg]

end Sys2Proof.Machine

/-! ### The settled statements -/

namespace Sys2Proof.Proofs
open Sys2Proof.Machine

/-- Settles O4: a well-formed operation's write data fits its port, so neither the flat layout nor the cut on entry loses a bit. -/
theorem everyWellFormedOperationSurvivesItsTableWord : Obligations.EveryWellFormedOperationSurvivesItsTableWord := by
  unfold Obligations.EveryWellFormedOperationSurvivesItsTableWord
  intro w i hwf
  have hfit : (encode i).toTableWord < 2 ^ (12 + w) := toTableWord_lt ((wellFormed_iff w i).mp hwf)
  exact ⟨hfit, decodeTableWord_toTableWord hfit (decode_encode i), decode_onEntry_encode hwf⟩

/-- Settles O3: the `decode_of_` lemma of each case, and the counts over the kinds of control words. -/
theorem decodingFollowsTheOrderAndIsTotal : Obligations.DecodingFollowsTheOrderAndIsTotal := by
  unfold Obligations.DecodingFollowsTheOrderAndIsTotal
  refine ⟨fun inp => ⟨decode_of_rst, fun hr hv => ⟨decode_of_idle hr hv, rfl⟩, fun r hr hv hi => ?access,
    fun hr hv hi => ?reserved⟩, fun v s => ?counts⟩
  case access =>
    have hd := decode_of_access hr hv (ofIndex_ctlIdx hi)
    refine ⟨fun hwe => ⟨?_, tickInput_ofRead r _⟩, fun hwe => ⟨?_, tickInput_ofWrite r _ _⟩⟩
    · rw [hd, ctlWe, hwe]; rfl
    · rw [hd, ctlWe, hwe]; rfl
  case reserved => exact decode_of_reserved hr hv ((Reg.ofIndex_eq_none_iff _).mpr hi)
  case counts =>
    refine ⟨countP_decode true false false false ?_ v s, countP_decode false true false false ?_ v s,
      countP_decode false false true false ?_ v s, countP_decode false false false true ?_ v s⟩ <;>
    exact ⟨rfl, fun _ => rfl, fun r _ _ we => by cases we <;> cases r <;> rfl, fun _ => rfl⟩

/-- Settles O5: what is decoded carries no more than the cut write data, and a well-formed operation decodes back. -/
theorem everyPresentedOperationIsWellFormed : Obligations.EveryPresentedOperationIsWellFormed := by
  unfold Obligations.EveryPresentedOperationIsWellFormed
  intro w inp i hd
  have hcut : (inp.onEntry w).wdata < 2 ^ w := Nat.mod_lt _ (Nat.two_pow_pos w)
  have hwf : i.wellFormed w = true := (wellFormed_iff w i).mpr ((wdata_le_of_decode hd).trans_lt hcut)
  exact ⟨hwf, decode_onEntry_encode hwf⟩

/-- Settles O8: the decoder's only error is the reserved index, and `step` refuses under the word it names. -/
theorem reservedControlWordsAreRefused : Obligations.ReservedControlWordsAreRefused := by
  unfold Obligations.ReservedControlWordsAreRefused
  refine ⟨fun inp => (exists_decode_error_iff inp).trans (reserved_word_iff inp.ctl), fun s hok hword => ?_⟩
  exact step_of_reserved hok (decode_of_reserved_word _ _ hword)

/-- Settles O2: each word meets the bit tests of its row, and the two reserved words lie in the ranges of R87. -/
theorem specWordsDecodeToTheirOperations : Obligations.SpecWordsDecodeToTheirOperations := by
  unfold Obligations.SpecWordsDecodeToTheirOperations
  intro v s
  have read (r : Reg) {c : Ctl} := (Laws.decode_eq_read_iff r c v s).mpr
  have write (r : Reg) {c : Ctl} := (Laws.decode_eq_write_iff r c v s).mpr
  exact ⟨(Laws.decode_eq_reset_iff _ v s).mpr (by decide), (Laws.decode_eq_reset_iff _ v s).mpr (by decide),
    (Laws.decode_eq_idle_iff _ v s).mpr (by decide), (Laws.decode_eq_idle_iff _ v s).mpr (by decide),
    read .o (by decide), read .cper (by decide), read .c4 (by decide),
    write .o (by decide), write .capen (by decide), write .c4 (by decide),
    decode_of_reserved_word v s (by decide), decode_of_reserved_word v s (by decide)⟩

/-- Settles O6: a queued input and the environment's free input enter through the same `fetch`. -/
theorem stepRunsTheDecodedOperation : Obligations.StepRunsTheDecodedOperation := by
  unfold Obligations.StepRunsTheDecodedOperation
  refine ⟨fun s i inp rest hok hin hd => ?queued, fun s hempty => ?free⟩
  case queued =>
    have hrest : s.inputs.tail = rest := congrArg List.tail hin
    rw [← fetch_of_cons hin] at hd
    rw [step_of_decode hok hd, consume_of_tail hrest]
  case free =>
    have hrest : s.inputs.tail = [] := congrArg List.tail hempty
    exact step_congr (fetch_of_nil hempty) (consume_of_tail hrest)

end Sys2Proof.Proofs

/-!
PROOFS. The statements of spec/40_register_ops.md: the idle tick (R120), the nine reads (R100) and the nine writes (R101, R67).
-/
namespace Sys2Proof.Machine

/-! ### A tick with no channel in cap mode -/

theorem padBit_capen_of_eq_zero {s : State} (h : s.capen = 0) (n : Channel) : padBit s.capen n = false := by
  rw [h, padBit_zero]

theorem not_event_of_disabled {s : State} {n : Channel} (h : padBit s.capen n = false) (sense : Pads) :
    ¬ s.event sense n := by
  rintro ⟨hen, _, _⟩
  exact Bool.noConfusion (h.symm.trans hen)

/-- With `CAPEN = 0` a tick neither latches nor has an event, so the scheduler and the channels hold (R135, R159). -/
theorem BlockTick.holds_of_capen_zero {s t : State} {sense : Pads} (h : BlockTick s sense t) (h0 : s.capen = 0) :
    t.c = s.c ∧ t.cnt = s.cnt ∧ t.live = s.live ∧ t.ph = s.ph := by
  have hlatch : ¬ s.latchTick := fun ⟨hen, _⟩ => hen h0
  have hdis := padBit_capen_of_eq_zero h0
  refine ⟨perChannel_ext fun n => ?c, ?cnt, perChannel_ext fun n => BitVec.eq_of_toNat_eq ?live, perChannel_ext fun n => ?ph⟩
  case c => rw [h.c, if_neg hlatch]
  case cnt => rw [h.cnt, if_pos h0]
  case live => rw [h.live, if_neg hlatch, if_neg (not_event_of_disabled (hdis n) sense)]
  case ph => rw [h.ph, if_pos (hdis n)]

/-! ### Writes -/

/-- The block's own update writes none of the four registers, so what they hold after the tick is what `regWrite` left (R182). -/
theorem hostRegsAre_writeTick (r : Reg) (v : Nat) (s : State) (sense : Pads) :
    HostRegsAre (writeTick r v s sense)
      (if r = .o then truncPads v else s.o) (if r = .oe then truncPads v else s.oe)
      (if r = .capen then truncPads v else s.capen) (if r = .cper then truncW s.cfg v else s.cper) :=
  ⟨regWrite_o r v _, regWrite_oe r v _, regWrite_capen r v _, regWrite_cper r v _⟩

theorem runsWriting_of_tickInput {i : Instr} {r : Reg} {v : Nat} {sense : Pads} (hi : tickInput i = some (.wr r v, sense))
    (s : State) : RunsWriting i s sense r v :=
  ⟨_, exec_of_tickInput hi s, blockTick_opTick _ s sense, hostRegsAre_writeTick r v s sense⟩

end Sys2Proof.Machine

/-! ### The settled statements -/

namespace Sys2Proof.Proofs
open Sys2Proof.Machine

/-- Settles O14: an idle tick is the block's part alone, and that holds everything but `I` while no channel is enabled. -/
theorem idleRunsOnlyTheBlock : Obligations.IdleRunsOnlyTheBlock := by
  unfold Obligations.IdleRunsOnlyTheBlock
  intro s sense
  have hruns : RunsHoldingHostRegs (.idle sense) s sense := runsHoldingHostRegs_of_idleTick rfl
  refine ⟨hruns, fun h0 => ?_⟩
  obtain ⟨t, ht, hblock, _⟩ := hruns
  exact ⟨t, ht, hblock.holds_of_capen_zero h0⟩

/-- Settles O15: each read answers `regRead` of its register, whose rows are the zero-extended pre-tick values. -/
theorem readsAnswerThePreTickRegister : Obligations.ReadsAnswerThePreTickRegister := by
  unfold Obligations.ReadsAnswerThePreTickRegister
  intro s sense
  have read {i : Instr} (r : Reg) (hi : tickInput i = some (.rd r, sense)) : RunsReading i s sense (regRead s r) :=
    runsReading_of_regRead hi rfl
  exact ⟨read .o rfl, read .oe rfl, read .i rfl, read .capen rfl, read .cper rfl,
    read .c1 rfl, read .c2 rfl, read .c3 rfl, read .c4 rfl⟩

/-- Settles O16: each write is the tick of `regWrite` on its register, which stores the cut value or ignores it. -/
theorem writesStoreOrAreIgnored : Obligations.WritesStoreOrAreIgnored := by
  unfold Obligations.WritesStoreOrAreIgnored
  intro s v sense
  have write {i : Instr} (r : Reg) (hi : tickInput i = some (.wr r v, sense)) : RunsWriting i s sense r v :=
    runsWriting_of_tickInput hi s
  exact ⟨write .o rfl, write .oe rfl, write .i rfl, write .capen rfl, write .cper rfl,
    write .c1 rfl, write .c2 rfl, write .c3 rfl, write .c4 rfl⟩

end Sys2Proof.Proofs

/-!
PROOFS. The statements of spec/41_scheduler.md: the countdown (R131), the latch event (R132 to R134), the disabled block (R135), the zero
period (R137), a rewritten period (R138) and the first latch after reset (R139).
-/
namespace Sys2Proof.Machine

/-! ### The scheduler's part of one tick -/

theorem not_latchTick_of_capen_zero {s : State} (h0 : s.capen = 0) : ¬ s.latchTick := fun ⟨hen, _⟩ => hen h0

namespace BlockTick

variable {s t : State} {sense : Pads}

theorem cnt_of_count (h : BlockTick s sense t) (hen : s.capen ≠ 0) (hcnt : s.cnt ≠ 0) : t.cnt = s.cnt - 1 := by
  rw [h.cnt, if_neg hen, if_pos hcnt]

theorem cnt_of_latchTick (h : BlockTick s sense t) (hl : s.latchTick) : t.cnt = s.cper := by
  rw [h.cnt, if_neg hl.1, if_neg (not_not.mpr hl.2)]

theorem c_of_latchTick (h : BlockTick s sense t) (hl : s.latchTick) (n : Channel) :
    ofChannel t.c n = ofChannel s.live n := by
  rw [h.c, if_pos hl]

theorem c_of_not_latchTick (h : BlockTick s sense t) (hl : ¬ s.latchTick) (n : Channel) :
    ofChannel t.c n = ofChannel s.c n := by
  rw [h.c, if_neg hl]

/-- The clear has priority over an event of the latch tick (R134, D10). -/
theorem live_of_latchTick (h : BlockTick s sense t) (hl : s.latchTick) (n : Channel) : ofChannel t.live n = 0 := by
  apply BitVec.eq_of_toNat_eq
  rw [h.live, if_pos hl]; rfl

theorem live_of_not_event (h : BlockTick s sense t) (hl : ¬ s.latchTick) {n : Channel} (hev : ¬ s.event sense n) :
    ofChannel t.live n = ofChannel s.live n := by
  apply BitVec.eq_of_toNat_eq
  rw [h.live, if_neg hl, if_neg hev]

theorem ph_of_event (h : BlockTick s sense t) {n : Channel} (hev : s.event sense n) : ofChannel t.ph n = .charging := by
  rw [h.ph, if_neg (by simp [hev.1]), if_pos hev]

end BlockTick

theorem blockTick_of_ne_reset {i : Instr} {s t : State} (hi : i ≠ .reset) (ht : exec i s = .next t) :
    ∃ sense, BlockTick s sense t := by
  obtain ⟨hreset, _⟩ | ⟨op, sense, _, hop⟩ := exec_cases i s
  · exact absurd hreset hi
  · obtain rfl : opTick op s sense = t := Host.Outcome.next.inj (hop.symm.trans ht)
    exact ⟨sense, blockTick_opTick op s sense⟩

/-- `RESET` leaves `CAPEN = 0` (R37), so a tick that leaves a channel enabled is none. -/
theorem blockTick_of_enabled {i : Instr} {s t : State} (hen : t.capen ≠ 0) (ht : exec i s = .next t) :
    ∃ sense, BlockTick s sense t := by
  refine blockTick_of_ne_reset ?_ ht
  rintro rfl
  obtain rfl : resetTick s = t := Host.Outcome.next.inj ht
  exact hen (resetTick_capen s)

/-! ### Properties along a run -/

namespace AlongRun

variable {P Q : State → Prop} {is : List Instr} {s : State}

theorem mono (hPQ : ∀ u, P u → Q u) (h : AlongRun P is s) : AlongRun Q is s := by
  induction is generalizing s with
  | nil => exact hPQ s h
  | cons i is ih => exact ⟨hPQ s h.head, fun t ht => ih (h.tail ht)⟩

/-- Every run completes, and what holds along it holds of its last state. -/
theorem last (h : AlongRun P is s) : ∃ t, runInstrs is s = .next t ∧ P t := by
  induction is generalizing s with
  | nil => exact ⟨s, rfl, h⟩
  | cons i is ih =>
    obtain ⟨t, ht, _⟩ := exec_completes i s
    rw [runInstrs_cons ht]
    exact ih (h.tail ht)

/-- The induction over runs, once: what holds at the start and is kept by every operation of the run between states with `P` holds
along the run. -/
theorem and_invariant (h : AlongRun P is s) (hs : Q s)
    (hstep : ∀ i ∈ is, ∀ u v, exec i u = .next v → P u → P v → Q u → Q v) : AlongRun (fun u => P u ∧ Q u) is s := by
  induction is generalizing s with
  | nil => exact ⟨h, hs⟩
  | cons i is ih =>
    refine ⟨⟨h.head, hs⟩, fun t ht => ?_⟩
    have hrest := h.tail ht
    exact ih hrest (hstep i List.mem_cons_self s t ht h.head hrest.head hs)
      fun j hj => hstep j (List.mem_cons_of_mem i hj)

/-- The last tick of a nonempty run, with the state before it and the state after it. -/
theorem last_tick {i : Instr} (h : AlongRun P (is ++ [i]) s) :
    ∃ u t, runInstrs is s = .next u ∧ exec i u = .next t ∧ runInstrs (is ++ [i]) s = .next t ∧ P u ∧ P t := by
  obtain ⟨u, hu, hPu⟩ := h.append_left.last
  obtain ⟨t, ht, _⟩ := exec_completes i u
  refine ⟨u, t, hu, ht, ?_, hPu, (h.append_right hu).tail ht⟩
  rw [runInstrs_append hu, runInstrs_cons ht]; rfl

end AlongRun

/-! ### Runs of a disabled block -/

/-- The scheduler's and the channels' state of `t` is that of `s` (R135, R159). -/
def CountsHeld (s t : State) : Prop := t.c = s.c ∧ t.cnt = s.cnt ∧ t.live = s.live ∧ t.ph = s.ph

theorem CountsHeld.refl (s : State) : CountsHeld s s := ⟨rfl, rfl, rfl, rfl⟩

theorem CountsHeld.trans {s t u : State} (hst : CountsHeld s t) (htu : CountsHeld t u) : CountsHeld s u := by
  obtain ⟨hc, hcnt, hlive, hph⟩ := hst
  obtain ⟨hc', hcnt', hlive', hph'⟩ := htu
  exact ⟨hc'.trans hc, hcnt'.trans hcnt, hlive'.trans hlive, hph'.trans hph⟩

theorem countsHeld_along_disabled_run {is : List Instr} {s : State} (hreset : ∀ i ∈ is, i ≠ .reset)
    (h : AlongRun (fun u => u.capen = 0) is s) : AlongRun (fun u => u.capen = 0 ∧ CountsHeld s u) is s := by
  refine h.and_invariant (CountsHeld.refl s) fun i hi u v huv hu _ hheld => ?_
  obtain ⟨sense, hblock⟩ := blockTick_of_ne_reset (hreset i hi) huv
  exact hheld.trans (hblock.holds_of_capen_zero hu)

/-! ### Runs of an enabled block -/

/-- While some channel is enabled the countdown loses one per tick, as long as it is not yet out (R131). -/
theorem countdown_run {is : List Instr} {s : State} (h : AlongRun (fun u => u.capen ≠ 0) is s) (hlen : is.length ≤ s.cnt) :
    ∃ u, runInstrs is s = .next u ∧ u.cnt + is.length = s.cnt := by
  induction is generalizing s with
  | nil => exact ⟨s, rfl, rfl⟩
  | cons i is ih =>
    obtain ⟨t, ht, _⟩ := exec_completes i s
    have hrest := h.tail ht
    obtain ⟨sense, hblock⟩ := blockTick_of_enabled hrest.head ht
    rw [List.length_cons] at hlen ⊢
    have hcnt : t.cnt = s.cnt - 1 := hblock.cnt_of_count h.head (by omega)
    obtain ⟨u, hu, hcount⟩ := ih hrest (by omega)
    exact ⟨u, (runInstrs_cons ht is).trans hu, by omega⟩

/-- The tick after the countdown has run out loads the period (R132). -/
theorem reload_run {is : List Instr} {s : State} {p : Nat} (h : AlongRun (fun u => u.capen ≠ 0 ∧ u.cper = p) is s)
    (hlen : is.length = s.cnt + 1) : ∃ u, runInstrs is s = .next u ∧ u.cnt = p := by
  obtain rfl | ⟨js, i, rfl⟩ := is.eq_nil_or_concat'
  · exact absurd hlen.symm (Nat.succ_ne_zero _)
  · obtain ⟨u, t, hu, ht, hrun, ⟨hen, hcper⟩, ⟨hen', _⟩⟩ := h.last_tick
    have hjs : js.length = s.cnt := by simpa using hlen
    obtain ⟨u', hu', hcount⟩ := countdown_run (h.append_left.mono fun _ hP => hP.1) hjs.le
    obtain rfl : u = u' := Host.Outcome.next.inj (hu.symm.trans hu')
    obtain ⟨sense, hblock⟩ := blockTick_of_enabled hen' ht
    exact ⟨t, hrun, (hblock.cnt_of_latchTick ⟨hen, by omega⟩).trans hcper⟩

/-- A zero period reloads the countdown with 0 (R137). -/
theorem latchTick_along_zero_period_run {is : List Instr} {s : State} (h0 : s.cnt = 0)
    (h : AlongRun (fun u => u.capen ≠ 0 ∧ u.cper = 0) is s) : AlongRun State.latchTick is s := by
  have hout : AlongRun (fun u => (u.capen ≠ 0 ∧ u.cper = 0) ∧ u.cnt = 0) is s := by
    refine h.and_invariant h0 fun i _ u v huv hu hv hcnt => ?_
    obtain ⟨sense, hblock⟩ := blockTick_of_enabled hv.1 huv
    exact (hblock.cnt_of_latchTick ⟨hu.1, hcnt⟩).trans hu.2
  exact hout.mono fun _ ⟨⟨hen, _⟩, hcnt⟩ => ⟨hen, hcnt⟩

theorem live_eq_zero_of_latching_run {is : List Instr} {s t : State} (h : AlongRun State.latchTick is s)
    (hlen : 1 ≤ is.length) (ht : runInstrs is s = .next t) (n : Channel) : ofChannel t.live n = 0 := by
  obtain rfl | ⟨js, i, rfl⟩ := is.eq_nil_or_concat'
  · exact absurd hlen (by decide)
  · obtain ⟨u, t', _, hexec, hrun, hl, hl'⟩ := h.last_tick
    obtain rfl : t' = t := Host.Outcome.next.inj (hrun.symm.trans ht)
    obtain ⟨sense, hblock⟩ := blockTick_of_enabled hl'.1 hexec
    exact hblock.live_of_latchTick hl n

/-- The last latch copies the live counts that the latch before it cleared. -/
theorem c_eq_zero_of_latching_run {is : List Instr} {s t : State} (h : AlongRun State.latchTick is s)
    (hlen : 2 ≤ is.length) (ht : runInstrs is s = .next t) (n : Channel) : ofChannel t.c n = 0 := by
  obtain rfl | ⟨js, i, rfl⟩ := is.eq_nil_or_concat'
  · exact absurd hlen (by decide)
  · obtain ⟨u, t', hu, hexec, hrun, hl, hl'⟩ := h.last_tick
    obtain rfl : t' = t := Host.Outcome.next.inj (hrun.symm.trans ht)
    obtain ⟨sense, hblock⟩ := blockTick_of_enabled hl'.1 hexec
    have hjs : 1 ≤ js.length := by simpa using hlen
    exact (hblock.c_of_latchTick hl n).trans (live_eq_zero_of_latching_run h.append_left hjs hu n)

/-! ### The first enabling write -/

/-- Writing a value with a nonzero low nibble to `CAPEN` with the countdown out makes the next tick a latch tick (R139). -/
theorem latchTick_of_capen_write {s : State} {v : Nat} (sense : Pads) (hv : v % 16 ≠ 0) (h0 : s.capen = 0)
    (hcnt : s.cnt = 0) : (opTick (.wr .capen v) s sense).latchTick := by
  refine ⟨?_, ?_⟩
  · rw [opTick_capen]
    exact mt (truncPads_eq_zero_iff v).mp hv
  · rw [opTick_cnt, nextCnt_inert h0, hcnt]

end Sys2Proof.Machine

/-! ### The settled statements -/

namespace Sys2Proof.Proofs
open Sys2Proof.Machine

/-- Settles O24: every tick of a disabled block holds the counts, so they are those of the start along the whole run. -/
theorem disabledBlockFreezesItsCounts : Obligations.DisabledBlockFreezesItsCounts := by
  unfold Obligations.DisabledBlockFreezesItsCounts
  intro s is hreset h
  obtain ⟨t, ht, _, hc, hcnt, hlive, hph⟩ := (countsHeld_along_disabled_run hreset h).last
  exact ⟨t, ht, hcnt, hc, hlive, hph, h.mono fun _ => not_latchTick_of_capen_zero⟩

/-- Settles O22: the tick is the block's part of R183 on a state that is at no latch tick. -/
theorem nonzeroCountdownDecrements : Obligations.NonzeroCountdownDecrements := by
  unfold Obligations.NonzeroCountdownDecrements
  intro s i op sense hi hen hcnt
  have hblock := blockTick_opTick op s sense
  have hl : ¬ s.latchTick := fun ⟨_, h0⟩ => hcnt h0
  exact ⟨_, exec_of_tickInput hi s, hblock.cnt_of_count hen hcnt, hl, perChannel_ext (hblock.c_of_not_latchTick hl),
    fun _ hev => hblock.live_of_not_event hl hev⟩

/-- Settles O23: the tick is the block's part of R183, read off on a latch tick and on any other tick. -/
theorem latchReloadsCopiesAndClears : Obligations.LatchReloadsCopiesAndClears := by
  unfold Obligations.LatchReloadsCopiesAndClears
  intro s i op sense hi
  have hblock := blockTick_opTick op s sense
  refine ⟨_, exec_of_tickInput hi s, fun hen h0 => ?_, hblock.c_of_not_latchTick⟩
  have hl : s.latchTick := ⟨hen, h0⟩
  exact ⟨hblock.cnt_of_latchTick hl, fun n => ⟨hblock.c_of_latchTick hl n, hblock.live_of_latchTick hl n, hblock.ph_of_event⟩⟩

/-- Settles O26: every state of the run is at a latch tick; the last latch clears the live counts, the one before it what the last
one copies. -/
theorem zeroPeriodLatchesEveryTick : Obligations.ZeroPeriodLatchesEveryTick := by
  unfold Obligations.ZeroPeriodLatchesEveryTick
  intro s is h0 h
  have hlatching := latchTick_along_zero_period_run h0 h
  obtain ⟨t, ht, _⟩ := hlatching.last
  exact ⟨hlatching, t, ht, fun hlen => live_eq_zero_of_latching_run hlatching hlen ht,
    fun hlen => c_eq_zero_of_latching_run hlatching hlen ht⟩

/-- Settles O27: the write's own tick counts from the old period; after it the countdown runs out, and the tick after that loads the
period the write left. -/
theorem rewrittenPeriodIsLoadedByTheNextLatch : Obligations.RewrittenPeriodIsLoadedByTheNextLatch := by
  unfold Obligations.RewrittenPeriodIsLoadedByTheNextLatch
  intro s v sense hen
  have hcnt : (opTick (.wr .cper v) s sense).cnt = if s.cnt = 0 then s.cper else s.cnt - 1 := by
    rw [opTick_cnt, nextCnt, if_pos ((anyEn_iff s).mpr hen)]
  exact ⟨opTick (.wr .cper v) s sense, rfl, opTick_cper .., hcnt, fun is h =>
    ⟨countdown_run (h.mono fun _ hP => hP.1), reload_run h⟩⟩

/-- Settles O28: the write's tick holds the zeros of the reset state, and the tick after it latches them. -/
theorem firstEnabledTickAfterResetLatchesZeros : Obligations.FirstEnabledTickAfterResetLatchesZeros := by
  unfold Obligations.FirstEnabledTickAfterResetLatchesZeros
  intro s v a b i op hs hv hi
  have hwrite := blockTick_opTick (.wr .capen v) s a
  have hblock := blockTick_opTick op (opTick (.wr .capen v) s a) b
  have hl := latchTick_of_capen_write a hv hs.capen hs.cnt
  obtain ⟨_, _, hlive, _⟩ := hwrite.holds_of_capen_zero hs.capen
  refine ⟨opTick (.wr .capen v) s a, _, rfl, exec_of_tickInput hi _, not_latchTick_of_capen_zero hs.capen, hl, ?cnt,
    fun n => ⟨?c, ?live⟩⟩
  case cnt => rw [hblock.cnt_of_latchTick hl, opTick_cper, hs.cper]
  case c => rw [hblock.c_of_latchTick hl, hlive, hs.live]
  case live => exact hblock.live_of_latchTick hl n

end Sys2Proof.Proofs

/-!
PROOFS. The statements of spec/42_channel_fsm.md: the next-state table (R161), the live counter (R155 to R157) and its bounds (R162, R223),
and the independence of the channels (R163).
-/
namespace Sys2Proof.Machine

/-! ### The live counter after an event -/

namespace BlockTick

variable {s t : State} {sense : Pads}

/-- The increment reads the channel's own counter and wraps (R155, R157). -/
theorem live_of_event_own (h : BlockTick s sense t) (hl : ¬ s.latchTick) {n : Channel} (hev : s.event sense n)
    (hown : n ≠ .ch2 ∨ s.cfg.ch2Src = .corrected) :
    (ofChannel t.live n).toNat = ((ofChannel s.live n).toNat + 1) % 256 := by
  rw [h.live, if_neg hl, if_pos hev, ← liveSrc_eq_ite, liveSrc_own hown]

/-- Channel 2 as built counts on from channel 1's pre-tick counter (R156). -/
theorem live_ch2_of_event_asBuilt (h : BlockTick s sense t) (hl : ¬ s.latchTick) (hev : s.event sense .ch2)
    (hsrc : s.cfg.ch2Src = .asBuilt) : t.live.ch2.toNat = (s.live.ch1.toNat + 1) % 256 := by
  have hlive := h.live .ch2
  rwa [if_neg hl, if_pos hev, if_pos ⟨rfl, hsrc⟩] at hlive

end BlockTick

/-- Inversion of `exec` in the words of the spec: a tick ends in the reset state or is the block's part of R183. -/
theorem inResetState_or_blockTick {i : Instr} {s t : State} (ht : exec i s = .next t) :
    InResetState t ∨ ∃ sense, BlockTick s sense t := by
  by_cases hi : i = .reset
  · subst hi
    obtain rfl : resetTick s = t := Host.Outcome.next.inj ht
    exact .inl (inResetState_resetTick s)
  · exact .inr (blockTick_of_ne_reset hi ht)

/-! ### At most one count every two ticks -/

/-- The invariant behind R162: an event costs two ticks, and a Charging channel has one of the two still to pay. -/
def CountedWithin (n : Channel) (k : Nat) (s : State) : Prop :=
  2 * (ofChannel s.live n).toNat ≤ k + (phaseBit (ofChannel s.ph n)).toNat

theorem countedWithin_of_live_eq_zero {n : Channel} {s : State} (h : ofChannel s.live n = 0) (k : Nat) :
    CountedWithin n k s := by
  simp [CountedWithin, h]

/-- The count alone, whatever the phase. -/
theorem CountedWithin.le_succ {n : Channel} {k : Nat} {s : State} (h : CountedWithin n k s) :
    2 * (ofChannel s.live n).toNat ≤ k + 1 :=
  h.trans (Nat.add_le_add_left (Bool.toNat_le _) k)

theorem CountedWithin.after_blockTick {n : Channel} {k : Nat} {s t : State} {sense : Pads} (h : CountedWithin n k s)
    (hown : n ≠ .ch2 ∨ s.cfg.ch2Src = .corrected) (hblock : BlockTick s sense t) : CountedWithin n (k + 1) t := by
  by_cases hl : s.latchTick
  · exact countedWithin_of_live_eq_zero (hblock.live_of_latchTick hl n) _
  · by_cases hev : s.event sense n
    · have hbefore : 2 * (ofChannel s.live n).toNat ≤ k := by simpa [CountedWithin, hev.2.1] using h
      have hcount := hblock.live_of_event_own hl hev hown
      rw [CountedWithin, hblock.ph_of_event hev, phaseBit_charging, Bool.toNat_true]
      omega
    · rw [CountedWithin, hblock.live_of_not_event hl hev]
      exact h.le_succ.trans (Nat.le_add_right _ _)

theorem CountedWithin.after_exec {i : Instr} {n : Channel} {k : Nat} {s t : State} (h : CountedWithin n k s)
    (hown : n ≠ .ch2 ∨ s.cfg.ch2Src = .corrected) (ht : exec i s = .next t) : CountedWithin n (k + 1) t := by
  obtain hreset | ⟨sense, hblock⟩ := inResetState_or_blockTick ht
  · exact countedWithin_of_live_eq_zero (hreset.live n) _
  · exact h.after_blockTick hown hblock

theorem CountedWithin.after_run {is : List Instr} {n : Channel} {k : Nat} {s : State} (h : CountedWithin n k s)
    (hown : n ≠ .ch2 ∨ s.cfg.ch2Src = .corrected) :
    ∃ t, runInstrs is s = .next t ∧ CountedWithin n (k + is.length) t := by
  induction is generalizing s k with
  | nil => exact ⟨s, rfl, h⟩
  | cons i is ih =>
    obtain ⟨u, hu, hcfg, _⟩ := exec_completes i s
    rw [runInstrs_cons hu, List.length_cons, Nat.add_comm is.length, ← Nat.add_assoc]
    exact ih (h.after_exec hown hu) (hcfg ▸ hown)

/-! ### Channel 2 as built, with channel 1 idle -/

/-- With channel 1's counter at 0, an event of channel 2 as built leaves 1 in its counter, however many went before (R156). -/
def ChannelTwoReportsAtMostOne (s : State) : Prop := s.live.ch1 = 0 ∧ s.live.ch2.toNat ≤ 1 ∧ s.c.ch2.toNat ≤ 1

theorem InResetState.channelTwoReportsAtMostOne {s : State} (h : InResetState s) : ChannelTwoReportsAtMostOne s := by
  have hlive2 : s.live.ch2 = 0 := h.live .ch2
  have hc2 : s.c.ch2 = 0 := h.c .ch2
  exact ⟨h.live .ch1, by simp [hlive2], by simp [hc2]⟩

theorem ChannelTwoReportsAtMostOne.after_blockTick {s t : State} {sense : Pads} (h : ChannelTwoReportsAtMostOne s)
    (hsrc : s.cfg.ch2Src = .asBuilt) (hdis : padBit s.capen .ch1 = false) (hblock : BlockTick s sense t) :
    ChannelTwoReportsAtMostOne t := by
  obtain ⟨hlive1, hlive2, hc2⟩ := h
  by_cases hl : s.latchTick
  · have hclear : t.live.ch2 = 0 := hblock.live_of_latchTick hl .ch2
    have hcopy : t.c.ch2 = s.live.ch2 := hblock.c_of_latchTick hl .ch2
    exact ⟨hblock.live_of_latchTick hl .ch1, by simp [hclear], by rwa [hcopy]⟩
  · have hhold1 : t.live.ch1 = s.live.ch1 := hblock.live_of_not_event hl (not_event_of_disabled hdis sense)
    have hholdc : t.c.ch2 = s.c.ch2 := hblock.c_of_not_latchTick hl .ch2
    refine ⟨hhold1.trans hlive1, ?_, by rwa [hholdc]⟩
    by_cases hev : s.event sense .ch2
    · rw [hblock.live_ch2_of_event_asBuilt hl hev hsrc, hlive1]
      decide
    · have hhold2 : t.live.ch2 = s.live.ch2 := hblock.live_of_not_event hl hev
      rwa [hhold2]

theorem ChannelTwoReportsAtMostOne.after_exec {i : Instr} {s t : State} (h : ChannelTwoReportsAtMostOne s)
    (hsrc : s.cfg.ch2Src = .asBuilt) (hdis : padBit s.capen .ch1 = false) (ht : exec i s = .next t) :
    ChannelTwoReportsAtMostOne t := by
  obtain hreset | ⟨sense, hblock⟩ := inResetState_or_blockTick ht
  · exact hreset.channelTwoReportsAtMostOne
  · exact h.after_blockTick hsrc hdis hblock

/-! ### What a channel reads -/

section Independence

variable {s s' : State} {a a' : Pads} {n : Channel}

theorem nextPh_congr (hen : padBit s.capen n = padBit s'.capen n) (hph : ofChannel s.ph n = ofChannel s'.ph n)
    (hsense : padBit a n = padBit a' n) : nextPh s a n = nextPh s' a' n := by
  simp only [nextPh, hen, hph, hsense]

theorem ev_congr (hen : padBit s.capen n = padBit s'.capen n) (hph : ofChannel s.ph n = ofChannel s'.ph n)
    (hsense : padBit a n = padBit a' n) : ev s a n = ev s' a' n := by
  simp only [ev, hen, hph, hsense]

theorem liveSrc_congr (hlive : ofChannel s.live n = ofChannel s'.live n)
    (hsrc : n ≠ .ch2 ∨ (s.cfg.ch2Src = .corrected ∧ s'.cfg.ch2Src = .corrected) ∨
      (s.cfg.ch2Src = s'.cfg.ch2Src ∧ s.live.ch1 = s'.live.ch1)) : liveSrc s n = liveSrc s' n := by
  obtain hn | ⟨hcor, hcor'⟩ | ⟨hcfg, hch1⟩ := hsrc
  · rw [liveSrc_own (.inl hn), liveSrc_own (.inl hn), hlive]
  · rw [liveSrc_own (.inr hcor), liveSrc_own (.inr hcor'), hlive]
  · rw [liveSrc_eq_ite, liveSrc_eq_ite, hcfg, hch1, hlive]

theorem latch_congr (h : s.latchTick ↔ s'.latchTick) : latch s = latch s' :=
  Bool.eq_iff_iff.mpr ((latch_iff s).trans (h.trans (latch_iff s').symm))

theorem nextLive_congr (hl : latch s = latch s') (hev : ev s a n = ev s' a' n) (hsrc : liveSrc s n = liveSrc s' n)
    (hlive : ofChannel s.live n = ofChannel s'.live n) : nextLive s a n = nextLive s' a' n := by
  simp only [nextLive, hl, hev, hsrc, hlive]

end Independence

theorem ofChannel_opTick_live (op : HostOp) (s : State) (sense : Pads) (n : Channel) :
    ofChannel (opTick op s sense).live n = nextLive s sense n := by
  rw [opTick_live, ofChannel_perChannel]

end Sys2Proof.Machine

/-! ### The settled statements -/

namespace Sys2Proof.Proofs
open Sys2Proof.Machine

/-- Settles O33, by the invariant `CountedWithin` over the run, starting from a count of 0 after no tick. -/
theorem atMostOneCountEveryTwoTicks : Obligations.AtMostOneCountEveryTwoTicks := by
  unfold Obligations.AtMostOneCountEveryTwoTicks
  intro s is n hown h0
  obtain ⟨t, ht, hcount⟩ := (countedWithin_of_live_eq_zero h0 0).after_run (is := is) hown
  exact ⟨t, ht, by simpa using hcount.le_succ⟩

/-- Settles O34: every operation keeps the source's value 0 and the two bounds while channel 1 is disabled; no operation changes
`CH2_SRC`. -/
theorem channelTwoAsBuiltAloneCountsAtMostOne : Obligations.ChannelTwoAsBuiltAloneCountsAtMostOne := by
  unfold Obligations.ChannelTwoAsBuiltAloneCountsAtMostOne
  intro s is hsrc hlive1 hlive2 hc2 hdis
  have hkept : AlongRun (fun u => padBit u.capen .ch1 = false ∧ u.cfg.ch2Src = .asBuilt ∧ ChannelTwoReportsAtMostOne u) is s :=
    hdis.and_invariant ⟨hsrc, hlive1, hlive2, hc2⟩ fun _ _ _ _ huv hoff _ ⟨hbuilt, hu⟩ =>
      ⟨(exec_preserves_cfg huv).symm ▸ hbuilt, hu.after_exec hbuilt hoff huv⟩
  obtain ⟨t, ht, _, _, hbounds⟩ := hkept.last
  exact ⟨t, ht, hbounds⟩

/-- Settles O30, row by row: the phase and the event are the channel's, the pads those of the pre-tick mode and phase. -/
theorem channelNextStateTable : Obligations.ChannelNextStateTable := by
  unfold Obligations.ChannelNextStateTable
  intro s i op sense n hi
  have hphase := ofChannel_opTick_ph op s sense n
  refine ⟨_, _, exec_of_tickInput hi s, opTick_out op s sense, ?disabled, ?charging, ?charged, ?discharged⟩
  case disabled =>
    intro hdis
    exact ⟨hphase.trans (nextPh_disabled sense hdis), not_event_of_disabled hdis sense, by simp [hdis], by simp [hdis]⟩
  case charging =>
    intro hen hch
    exact ⟨hphase.trans (nextPh_charging sense hen hch), not_event_of_charging hch sense, by simp [hen], by simp [hen, hch]⟩
  case charged =>
    intro hen hse hhigh
    have hev : ¬ s.event sense n := fun ⟨_, _, hlow⟩ => Bool.noConfusion (hlow.symm.trans hhigh)
    exact ⟨by rw [hphase, nextPh_sensing sense hen hse, if_pos hhigh], hev, by simp [hen], by simp [hen, hse]⟩
  case discharged =>
    intro hen hse hlow
    have hev : s.event sense n := ⟨hen, hse, hlow⟩
    exact ⟨hphase.trans (nextPh_event hev), hev, by simp [hen], by simp [hen, hse]⟩

/-- Settles O31: the clauses are the branches of R155, the last three its increment with each source of R156. -/
theorem liveCounterCountsEvents : Obligations.LiveCounterCountsEvents := by
  unfold Obligations.LiveCounterCountsEvents
  intro s i op sense hi
  have hblock := blockTick_opTick op s sense
  exact ⟨_, exec_of_tickInput hi s, hblock.live_of_latchTick, fun hl _ hev => hblock.live_of_not_event hl hev,
    fun hl _ hn hev => hblock.live_of_event_own hl hev (.inl hn), hblock.live_ch2_of_event_asBuilt,
    fun hl hev hcor => hblock.live_of_event_own hl hev (.inr hcor)⟩

/-- Settles O35: `nextPh` and `nextLive` read nothing of the state but what the two states share. -/
theorem channelsAreIndependent : Obligations.ChannelsAreIndependent := by
  unfold Obligations.ChannelsAreIndependent
  intro s s' i i' op op' a a' n hi hi' hen hph hsense
  refine ⟨_, _, exec_of_tickInput hi s, exec_of_tickInput hi' s', ?phase, fun hl hlive hsrc => ?live⟩
  case phase => rw [ofChannel_opTick_ph, ofChannel_opTick_ph, nextPh_congr hen hph hsense]
  case live =>
    rw [ofChannel_opTick_live, ofChannel_opTick_live]
    exact nextLive_congr (latch_congr hl) (ev_congr hen hph hsense) (liveSrc_congr hlive hsrc) hlive

end Sys2Proof.Proofs

/-!
PROOFS. The statements of spec/43_gpio_passthrough.md: the pad outputs (R170, R171), the input mirror (R172), the round trip through the
pads (R175), and what the unspecified bits of `I` cannot reach (R173, R187).
-/
namespace Sys2Proof.Machine

/-! ### The pads with no channel in cap mode -/

theorem padBit_all_ones (n : Channel) : padBit 0b1111 n = true := by cases n <;> rfl

/-- The read of a 4-bit register has the channel's bit where R12 numbers it. -/
theorem testBit_zextW (v : Pads) (n : Channel) : (zextW v).testBit (padIndex n) = padBit v n := rfl

section Gpio

variable {s : State}

theorem padO_of_capen_zero (h0 : s.capen = 0) : padO s = s.o :=
  pads_ext fun n => by rw [padBit_padO, padBit_capen_of_eq_zero h0]; rfl

theorem padOe_of_capen_zero (h0 : s.capen = 0) : padOe s = s.oe :=
  pads_ext fun n => by rw [padBit_padOe, padBit_capen_of_eq_zero h0]; rfl

theorem nextI_of_capen_zero (h0 : s.capen = 0) (sense : Pads) : nextI s sense = sense :=
  pads_ext fun n => by rw [padBit_nextI, padBit_capen_of_eq_zero h0]; rfl

/-- `RD.I` answers the levels sensed on the tick before it, while every pad is in GPIO mode (R172). -/
theorem regRead_i_after_gpio_tick (h0 : s.capen = 0) (op : HostOp) (sense : Pads) :
    regRead (opTick op s sense) .i = sense.toNat := by
  rw [regRead, opTick_i, nextI_of_capen_zero h0, zextW]

end Gpio

/-! ### What one tick answers, from its post-tick state -/

section Answers

variable {i : Instr} {s t : State}

theorem out_pads_of_exec (ht : exec i s = .next t) :
    t.out.map StepOutput.padO = some (padO s) ∧ t.out.map StepOutput.padOe = some (padOe s) := by
  obtain ⟨u, y, hu, hy, hpadO, hpadOe⟩ := exec_drives_pads i s
  obtain rfl : u = t := Host.Outcome.next.inj (hu.symm.trans ht)
  rw [hy, ← hpadO, ← hpadOe]
  exact ⟨rfl, rfl⟩

theorem out_rdata_of_read {r : Reg} {sense : Pads} (hi : tickInput i = some (.rd r, sense)) (ht : exec i s = .next t) :
    t.out.map StepOutput.rdata = some (regRead s r) := by
  obtain ⟨u, hu, hv⟩ := (runsReading_of_regRead (s := s) hi rfl).answers
  obtain rfl : u = t := Host.Outcome.next.inj (hu.symm.trans ht)
  exact hv

end Answers

/-! ### States that differ in `I` and in the model's own fields -/

/-- The two states agree on every element of the block but `I`, and on the parameters. -/
structure AgreeButInput (s s' : State) : Prop where
  o : s.o = s'.o
  oe : s.oe = s'.oe
  capen : s.capen = s'.capen
  cper : s.cper = s'.cper
  c : s.c = s'.c
  cnt : s.cnt = s'.cnt
  live : s.live = s'.live
  ph : s.ph = s'.ph
  cfg : s.cfg = s'.cfg

namespace AgreeButInput

variable {s s' : State}

theorem padO_eq (h : AgreeButInput s s') : padO s = padO s' := by simp only [padO, h.capen, h.o]

theorem padOe_eq (h : AgreeButInput s s') : padOe s = padOe s' := by simp only [padOe, h.capen, h.ph, h.oe]

theorem regRead_eq (h : AgreeButInput s s') {r : Reg} (hr : r ≠ .i) : regRead s r = regRead s' r := by
  cases r
  case i => exact absurd rfl hr
  case o => exact congrArg zextW h.o
  case oe => exact congrArg zextW h.oe
  case capen => exact congrArg zextW h.capen
  case cper => exact h.cper
  case c1 | c2 | c3 | c4 => simp only [regRead, h.c]

theorem latch_eq (h : AgreeButInput s s') : latch s = latch s' :=
  latch_congr (by rw [State.latchTick, h.capen, h.cnt])

theorem nextCnt_eq (h : AgreeButInput s s') : nextCnt s = nextCnt s' := by
  rw [nextCnt_eq_ite, nextCnt_eq_ite, h.capen, h.cnt, h.cper]

theorem nextC_eq (h : AgreeButInput s s') : nextC s = nextC s' :=
  funext fun n => by simp only [nextC, h.latch_eq, h.live, h.c]

theorem nextPh_eq (h : AgreeButInput s s') (sense : Pads) : nextPh s sense = nextPh s' sense :=
  funext fun n => nextPh_congr (by rw [h.capen]) (by rw [h.ph]) rfl

theorem nextLive_eq (h : AgreeButInput s s') (sense : Pads) : nextLive s sense = nextLive s' sense := by
  funext n
  have hlive : ofChannel s.live n = ofChannel s'.live n := by rw [h.live]
  have hev : ev s sense n = ev s' sense n := ev_congr (by rw [h.capen]) (by rw [h.ph]) rfl
  have hsrc : liveSrc s n = liveSrc s' n := liveSrc_congr hlive (.inr (.inr ⟨by rw [h.cfg], by rw [h.live]⟩))
  exact nextLive_congr h.latch_eq hev hsrc hlive

theorem after_opTick (h : AgreeButInput s s') (op : HostOp) (sense : Pads) :
    AgreeButInput (opTick op s sense) (opTick op s' sense) where
  o := by rw [opTick_o, opTick_o, h.o]
  oe := by rw [opTick_oe, opTick_oe, h.oe]
  capen := by rw [opTick_capen, opTick_capen, h.capen]
  cper := by rw [opTick_cper, opTick_cper, h.cper, h.cfg]
  c := by rw [opTick_c, opTick_c, h.nextC_eq]
  cnt := by rw [opTick_cnt, opTick_cnt, h.nextCnt_eq]
  live := by rw [opTick_live, opTick_live, h.nextLive_eq]
  ph := by rw [opTick_ph, opTick_ph, h.nextPh_eq]
  cfg := by rw [opTick_cfg, opTick_cfg, h.cfg]

theorem after_resetTick (h : AgreeButInput s s') : AgreeButInput (resetTick s) (resetTick s') where
  o := rfl
  oe := rfl
  capen := rfl
  cper := by rw [resetTick_cper, resetTick_cper, h.cfg]
  c := rfl
  cnt := rfl
  live := rfl
  ph := rfl
  cfg := h.cfg

/-- One tick reads `I` into the read port only, so the agreement is kept, and the bits the spec fixes agree after it (R172). -/
theorem after_exec (h : AgreeButInput s s') (i : Instr) :
    ∃ t t', exec i s = .next t ∧ exec i s' = .next t' ∧ AgreeButInput t t' ∧
      ∀ n, padBit s.capen n = false → padBit t.i n = padBit t'.i n := by
  obtain ⟨rfl, _⟩ | ⟨op, sense, hi, _⟩ := exec_cases i s
  · exact ⟨_, _, exec_reset s, exec_reset s', h.after_resetTick, fun _ _ => rfl⟩
  · refine ⟨_, _, exec_of_tickInput hi s, exec_of_tickInput hi s', h.after_opTick op sense, fun n hdis => ?_⟩
    rw [(blockTick_opTick op s sense).mirror n hdis, (blockTick_opTick op s' sense).mirror n (h.capen ▸ hdis)]

end AgreeButInput

end Sys2Proof.Machine

/-! ### The settled statements -/

namespace Sys2Proof.Proofs
open Sys2Proof.Machine

/-- Settles O36: the outputs of every tick are the two multiplexers of the pre-tick state, read in each mode. -/
theorem padOutputsFollowTheMode : Obligations.PadOutputsFollowTheMode := by
  unfold Obligations.PadOutputsFollowTheMode
  intro s i n
  obtain ⟨t, y, ht, hy, hpadO, hpadOe⟩ := exec_drives_pads i s
  refine ⟨t, y, ht, hy, fun hcap => ?cap, fun hgpio => ?gpio⟩
  case cap => simp [hpadO, hpadOe, hcap, phaseBit_eq_decide]
  case gpio => simp [hpadO, hpadOe, hgpio]

/-- Settles O37: the block's part of every tick mirrors the sensed level, and `RD.I` answers the register that tick left. -/
theorem inputMirrorFollowsThePad : Obligations.InputMirrorFollowsThePad := by
  unfold Obligations.InputMirrorFollowsThePad
  intro s i op sense later n hi hgpio
  have hmirror := (blockTick_opTick op s sense).mirror n hgpio
  exact ⟨opTick op s sense, _, _, exec_of_tickInput hi s, hmirror, exec_of_tickInput rfl _, opTick_out (.rd .i) _ later,
    (testBit_zextW _ n).trans hmirror⟩

/-- Settles O38: the written nibble is what the pads are told, so mirroring levels are that nibble, and `RD.I` answers the levels. -/
theorem writtenOutputComesBackAsInput : Obligations.WrittenOutputComesBackAsInput := by
  unfold Obligations.WrittenOutputComesBackAsInput
  intro s v a b c i op hcapen hoe hi
  let t := opTick (.wr .o v) s a
  have ht0 : t.capen = 0 := hcapen
  have hdriven : padO t = truncPads v := padO_of_capen_zero ht0
  have henabled : padOe t = 0b1111 := (padOe_of_capen_zero ht0).trans hoe
  have hon (n : Channel) : padBit (padOe t) n = true := henabled ▸ padBit_all_ones n
  refine ⟨t, opTick op t b, _, rfl, exec_of_tickInput hi t, opTick_out op t b, hon, fun hmirrors => ?_⟩
  have hb : b = truncPads v := (pads_ext fun n => hmirrors n (hon n)).trans hdriven
  have hread : regRead (opTick op t b) .i = v % 16 := by
    rw [regRead_i_after_gpio_tick ht0, hb, toNat_truncPads]
  exact (runsReading_of_regRead rfl hread).answers

/-- Settles O39: states that agree on all but `I` still do after a tick, and what a tick answers is a function of the rest. -/
theorem unspecifiedInputBitsInfluenceNothingElse : Obligations.UnspecifiedInputBitsInfluenceNothingElse := by
  unfold Obligations.UnspecifiedInputBitsInfluenceNothingElse
  intro s i bits d y
  have hs : AgreeButInput s { s with i := bits, draws := d, out := y } := ⟨rfl, rfl, rfl, rfl, rfl, rfl, rfl, rfl, rfl⟩
  obtain ⟨t, t', ht, ht', h, hmirror⟩ := hs.after_exec i
  obtain ⟨hpadO, hpadOe⟩ := out_pads_of_exec ht
  obtain ⟨hpadO', hpadOe'⟩ := out_pads_of_exec ht'
  refine ⟨t, t', ht, ht', h.o, h.oe, h.capen, h.cper, h.c, h.cnt, h.live, h.ph, hmirror, ?padO, ?padOe,
    fun r sense hi hr => ?rdata⟩
  case padO => rw [hpadO, hpadO', hs.padO_eq]
  case padOe => rw [hpadOe, hpadOe', hs.padOe_eq]
  case rdata => rw [out_rdata_of_read hi ht, out_rdata_of_read hi ht', hs.regRead_eq hr]

end Sys2Proof.Proofs

/-!
PROOFS. The statements of spec/44_step.md: the complete step (R183), reset (R184), completion (R185) and what a tick cannot change (R188).
-/
namespace Sys2Proof.Machine

/-! ### Completion -/

/-- R82, R87: only the reserved control words decode to no operation. -/
theorem exists_decode_ok {inp : StepInput}
    (h : ¬ ((0x29 ≤ inp.ctl.toNat ∧ inp.ctl.toNat ≤ 0x2F) ∨ (0x39 ≤ inp.ctl.toNat ∧ inp.ctl.toNat ≤ 0x3F))) :
    ∃ i, decode inp = .ok i := by
  cases hd : decode inp with
  | ok i => exact ⟨i, rfl⟩
  | error e => exact absurd ((reserved_word_iff inp.ctl).mp ((exists_decode_error_iff inp).mp ⟨e, hd⟩)) h

/-! ### Reset -/

theorem padBit_padOe_eq_decide (s : State) (n : Channel) :
    padBit (padOe s) n = if padBit s.capen n = true then decide (ofChannel s.ph n = .charging) else padBit s.oe n := by
  rw [padBit_padOe, phaseBit_eq_decide]

namespace InResetState

variable {s : State}

theorem padO_eq_zero (h : InResetState s) : padO s = 0 := (padO_of_capen_zero h.capen).trans h.o

theorem padOe_eq_zero (h : InResetState s) : padOe s = 0 := (padOe_of_capen_zero h.capen).trans h.oe

/-- Held reset keeps the reset state (R184). -/
theorem after_held_reset (h : InResetState s) (k : Nat) :
    ∃ u, runInstrs (List.replicate k .reset) s = .next u ∧ InResetState u := by
  induction k generalizing s with
  | zero => exact ⟨s, rfl, h⟩
  | succ k ih =>
    rw [List.replicate_succ, runInstrs_cons (exec_reset s)]
    exact ih (inResetState_resetTick s)

end InResetState

/-! ### What a tick holds -/

theorem hostRegsAre_opTick_of_ne_write {op : HostOp} (h : ∀ r v, op ≠ .wr r v) (s : State) (sense : Pads) :
    HostRegsAre (opTick op s sense) s.o s.oe s.capen s.cper := by
  cases op with
  | idle => exact ⟨rfl, rfl, rfl, rfl⟩
  | rd r => exact ⟨rfl, rfl, rfl, rfl⟩
  | wr r v => exact absurd rfl (h r v)

/-- A host-writable register that a tick changed was written by that tick (R188). -/
theorem write_of_hostReg_changed {i : Instr} {op : HostOp} {sense : Pads} (hi : tickInput i = some (op, sense)) (s : State) :
    ((opTick op s sense).o ≠ s.o → ∃ v, i = .wrO v sense) ∧
    ((opTick op s sense).oe ≠ s.oe → ∃ v, i = .wrOe v sense) ∧
    ((opTick op s sense).capen ≠ s.capen → ∃ v, i = .wrCapen v sense) ∧
    ((opTick op s sense).cper ≠ s.cper → ∃ v, i = .wrCper v sense) := by
  by_cases hop : ∃ r v, op = .wr r v
  · obtain ⟨r, v, rfl⟩ := hop
    obtain ⟨ho, hoe, hcapen, hcper⟩ := hostRegsAre_writeTick r v s sense
    have written {α : Type} (q : Reg) {new old cut : α} (hnew : new = if r = q then cut else old) (hne : new ≠ old) :
        ∃ v, i = Instr.ofWrite q v sense := by
      have hr : r = q := by_contra fun hr => hne (hnew.trans (if_neg hr))
      exact ⟨v, hr ▸ eq_of_tickInput hi⟩
    exact ⟨written .o ho, written .oe hoe, written .capen hcapen, written .cper hcper⟩
  · obtain ⟨ho, hoe, hcapen, hcper⟩ := hostRegsAre_opTick_of_ne_write (fun r v h => hop ⟨r, v, h⟩) s sense
    exact ⟨absurd ho, absurd hoe, absurd hcapen, absurd hcper⟩

end Sys2Proof.Machine

/-! ### The settled statements -/

namespace Sys2Proof.Proofs
open Sys2Proof.Machine

/-- Settles O7: each case of R183 is one case of the decoder, and runs an operation whose tick is already stated. -/
theorem stepIsTheStepOfTheSpec : Obligations.StepIsTheStepOfTheSpec := by
  unfold Obligations.StepIsTheStepOfTheSpec
  intro s inp rest hok hin s₁ v
  obtain ⟨hqueued, _⟩ := stepRunsTheDecodedOperation
  have run {i : Instr} (hd : decode (inp.onEntry s.cfg.w) = .ok i) : step s = exec i s₁ := hqueued s i inp rest hok hin hd
  refine ⟨fun hr => ?reset, fun hr hv => ?idle, fun hr hv hidx => ?reserved, fun r hr hv hidx => ?access⟩
  case reset =>
    exact ⟨_, _, run (decode_of_rst hr), inResetState_resetTick s₁, rfl, rfl, resetTick_out s₁, padBit_padO s₁,
      padBit_padOe_eq_decide s₁⟩
  case idle =>
    rw [run (decode_of_idle hr hv)]
    exact runsHoldingHostRegs_of_idleTick rfl
  case reserved =>
    have hnone : Reg.ofIndex (ctlIdx inp.ctl) = none := (Reg.ofIndex_eq_none_iff _).mpr hidx
    exact step_of_reserved hok (fetch_of_cons hin ▸ decode_of_reserved hr hv hnone)
  case access =>
    have hd := decode_of_access (inp := inp.onEntry s.cfg.w) hr hv (ofIndex_ctlIdx hidx)
    rw [onEntry_ctl, ctlWe] at hd
    refine ⟨fun hwe => ?read, fun hwe => ?write⟩ <;> rw [hwe] at hd
    case read =>
      rw [run hd]
      exact runsReading_of_regRead (tickInput_ofRead r inp.sense) (by cases r <;> rfl)
    case write =>
      have hcut : v % 2 ^ s₁.cfg.w = v := Nat.mod_mod _ _
      obtain ⟨t, ht, hblock, hregs⟩ := runsWriting_of_tickInput (tickInput_ofWrite r v inp.sense) s₁
      rw [hcut] at hregs
      exact ⟨t, (run hd).trans ht, hblock, hregs⟩

/-- Settles O9: an input that is not reserved decodes to an operation, and every operation completes. -/
theorem stepCompletesOnEveryOtherInput : Obligations.StepCompletesOnEveryOtherInput := by
  unfold Obligations.StepCompletesOnEveryOtherInput
  intro s hok hword
  obtain ⟨i, hd⟩ := exists_decode_ok hword
  rw [step_of_decode hok hd]
  exact exec_completes i (consume s)

/-- Settles O12: the pads of a tick are those of its pre-tick state, which in the reset state are all released. -/
theorem resetOverridesEverything : Obligations.ResetOverridesEverything := by
  unfold Obligations.ResetOverridesEverything
  refine ⟨fun _ => decode_of_rst, fun s => ?_⟩
  have hreset := inResetState_resetTick s
  refine ⟨_, _, exec_reset s, hreset, resetTick_cfg s, resetTick_cper_eq_of_cperReset, resetTick_inputs s, resetTick_out s,
    padBit_padO s, padBit_padOe_eq_decide s, fun i => ?_, hreset.after_held_reset⟩
  obtain ⟨u, z, hu, hz, hpadO, hpadOe⟩ := exec_drives_pads i (resetTick s)
  exact ⟨u, z, hu, hz, hpadO.trans hreset.padO_eq_zero, hpadOe.trans hreset.padOe_eq_zero⟩

/-- Settles O21: the host part changes only the register it writes, and the block's part is R183 read with the premise of each clause. -/
theorem whatATickCannotChange : Obligations.WhatATickCannotChange := by
  unfold Obligations.WhatATickCannotChange
  intro s i op sense hi
  have hblock := blockTick_opTick op s sense
  obtain ⟨ho, hoe, hcapen, hcper⟩ := write_of_hostReg_changed hi s
  refine ⟨_, exec_of_tickInput hi s, ho, hoe, hcapen, hcper, fun n hc => ?count, fun h0 => ?frozen, fun n hdis => ?disabled,
    fun h0 hop => ?onlyInput⟩
  case count => exact by_contra fun hl => hc (hblock.c_of_not_latchTick hl n)
  case frozen =>
    obtain ⟨hc, hcnt, hlive, _⟩ := hblock.holds_of_capen_zero h0
    exact ⟨hcnt, hc, hlive⟩
  case disabled => exact ⟨by rw [hblock.ph, if_pos hdis], not_event_of_disabled hdis sense⟩
  case onlyInput =>
    obtain ⟨ho, hoe, hcapen, hcper⟩ := hostRegsAre_opTick_of_ne_write hop s sense
    exact ⟨ho, hoe, hcapen, hcper, hblock.holds_of_capen_zero h0⟩

end Sys2Proof.Proofs

/-!
PROOFS. The statements of spec/45_properties.md: the distance between latch ticks (R242) and the source's scenario S1 (R244).
-/
namespace Sys2Proof.Machine

/-! ### The distance of two latch ticks -/

/-- From a latch tick the countdown is at `CPER` after one tick and loses one on each of the `CPER` ticks that follow (R242). -/
theorem countdown_run_of_latchTick {is : List Instr} {s : State} {p : Nat} (hl : s.latchTick)
    (h : AlongRun (fun u => u.capen ≠ 0 ∧ u.cper = p) is s) (hpos : 1 ≤ is.length) (hlen : is.length ≤ p + 1) :
    ∃ t, runInstrs is s = .next t ∧ t.cnt + is.length = p + 1 := by
  cases is with
  | nil => exact absurd hpos (by decide)
  | cons i is =>
    obtain ⟨t, ht, _⟩ := exec_completes i s
    have hrest := h.tail ht
    obtain ⟨sense, hblock⟩ := blockTick_of_enabled hrest.head.1 ht
    have hcnt : t.cnt = p := (hblock.cnt_of_latchTick hl).trans h.head.2
    rw [List.length_cons] at hlen ⊢
    obtain ⟨u, hu, hcount⟩ := countdown_run (hrest.mono fun _ hP => hP.1) (by omega)
    exact ⟨u, (runInstrs_cons ht is).trans hu, by omega⟩

/-- With a channel enabled and the period `p` kept, a latch tick is followed by `p` ticks without a latch and then by the next latch
tick (R242). -/
theorem latchTick_iff_of_run_of_latchTick {is : List Instr} {s : State} {p : Nat} (hl : s.latchTick)
    (h : AlongRun (fun u => u.capen ≠ 0 ∧ u.cper = p) is s) (hpos : 1 ≤ is.length) (hlen : is.length ≤ p + 1) :
    ∃ t, runInstrs is s = .next t ∧ (t.latchTick ↔ is.length = p + 1) ∧ t.cnt + is.length = p + 1 := by
  obtain ⟨t, ht, hcount⟩ := countdown_run_of_latchTick hl h hpos hlen
  obtain ⟨t', ht', hen, _⟩ := h.last
  obtain rfl : t = t' := Host.Outcome.next.inj (ht.symm.trans ht')
  have hout : t.cnt = 0 ↔ is.length = p + 1 := by omega
  exact ⟨t, ht, (and_iff_right hen).trans hout, hcount⟩

/-! ### A block with channel 1 alone in cap mode -/

/-- A run of `IDLE` operations is one idle tick per sensed word (R120). -/
theorem runInstrs_idle (sense : List Pads) (s : State) : runInstrs (sense.map .idle) s = .next (sense.foldl idleTick s) := by
  induction sense generalizing s with
  | nil => rfl
  | cons a sense ih => exact (runInstrs_cons rfl _).trans (ih (idleTick s a))

/-- A discharge event of a channel in cap mode, from its phase and the level of its pad (R154). -/
def dischargeEvent (phase : Phase) (level : Bool) : Bool := phase == .sensing && !level

/-- Channel 1 alone is in cap mode and has the given countdown, phase and counts; the other channels have counted nothing. -/
structure OnlyChannelOne (cper cnt : Nat) (phase : Phase) (events latched : Count) (s : State) : Prop where
  capen : s.capen = 0b0001
  cper : s.cper = cper
  cnt : s.cnt = cnt
  phase : s.ph.ch1 = phase
  live_ch1 : s.live.ch1 = events
  live_other : ∀ n, n ≠ .ch1 → ofChannel s.live n = 0
  c : s.c = ⟨latched, 0, 0, 0⟩

namespace OnlyChannelOne

variable {cper cnt : Nat} {phase : Phase} {events latched : Count} {s : State}

theorem capen_ne_zero (h : OnlyChannelOne cper cnt phase events latched s) : s.capen ≠ 0 := by
  rw [h.capen]; decide

theorem live (h : OnlyChannelOne cper cnt phase events latched s) : s.live = ⟨events, 0, 0, 0⟩ := by
  apply perChannel_ext
  intro n
  cases n
  case ch1 => exact h.live_ch1
  case ch2 | ch3 | ch4 => exact h.live_other _ (by decide)

theorem event_ch1_iff (h : OnlyChannelOne cper cnt phase events latched s) (sense : Pads) :
    s.event sense .ch1 ↔ dischargeEvent phase (padBit sense .ch1) = true := by
  have hen : padBit s.capen .ch1 = true := by rw [h.capen]; rfl
  simp [State.event, dischargeEvent, hen, ofChannel, h.phase]

theorem not_event_of_ne_ch1 (h : OnlyChannelOne cper cnt phase events latched s) (sense : Pads) {n : Channel} (hn : n ≠ .ch1) :
    ¬ s.event sense n := by
  refine not_event_of_disabled ?_ sense
  rw [h.capen]
  cases n
  case ch1 => exact absurd rfl hn
  case ch2 | ch3 | ch4 => rfl

/-- In cap mode the next phase is charging exactly after an event (R152, R153, R154). -/
theorem ph_ch1_after_tick (h : OnlyChannelOne cper cnt phase events latched s) {sense : Pads} {t : State}
    (hblock : BlockTick s sense t) :
    t.ph.ch1 = if dischargeEvent phase (padBit sense .ch1) then .charging else .sensing := by
  have hen : ¬ padBit s.capen .ch1 = false := by rw [h.capen]; decide
  refine (hblock.ph .ch1).trans ?_
  simp only [if_neg hen, h.event_ch1_iff sense]

/-- A tick before the latch tick counts channel 1's event, if there is one (R131, R155). -/
theorem after_counting_tick (h : OnlyChannelOne cper (cnt + 1) phase events latched s) (sense : Pads) :
    OnlyChannelOne cper cnt (if dischargeEvent phase (padBit sense .ch1) then .charging else .sensing)
      (if dischargeEvent phase (padBit sense .ch1) then events + 1 else events) latched (idleTick s sense) := by
  have hblock := blockTick_opTick .idle s sense
  have hcnt : s.cnt ≠ 0 := by rw [h.cnt]; exact Nat.succ_ne_zero cnt
  have hl : ¬ s.latchTick := fun ⟨_, h0⟩ => hcnt h0
  refine ⟨h.capen, h.cper, ?cnt, h.ph_ch1_after_tick hblock, ?live_ch1, fun n hn => ?live_other, ?c⟩
  case cnt => exact (hblock.cnt_of_count h.capen_ne_zero hcnt).trans (by rw [h.cnt]; rfl)
  case live_ch1 =>
    rw [← h.live_ch1]
    split
    next hev =>
      apply BitVec.eq_of_toNat_eq
      have hlive := hblock.live_of_event_own hl ((h.event_ch1_iff sense).mpr hev) (.inl (by decide))
      exact hlive.trans (BitVec.toNat_add s.live.ch1 1).symm
    next hev => exact hblock.live_of_not_event hl (mt (h.event_ch1_iff sense).mp hev)
  case live_other => exact (hblock.live_of_not_event hl (h.not_event_of_ne_ch1 sense hn)).trans (h.live_other n hn)
  case c => exact (perChannel_ext (hblock.c_of_not_latchTick hl)).trans h.c

/-- The latch tick moves the live counts to the latched ones, its own event lost (R132 to R134). -/
theorem after_latch_tick (h : OnlyChannelOne cper 0 phase events latched s) (sense : Pads) :
    OnlyChannelOne cper cper (if dischargeEvent phase (padBit sense .ch1) then .charging else .sensing) 0 events
      (idleTick s sense) := by
  have hblock := blockTick_opTick .idle s sense
  have hl : s.latchTick := ⟨h.capen_ne_zero, h.cnt⟩
  exact ⟨h.capen, h.cper, (hblock.cnt_of_latchTick hl).trans h.cper, h.ph_ch1_after_tick hblock, hblock.live_of_latchTick hl .ch1,
    fun n _ => hblock.live_of_latchTick hl n, (perChannel_ext (hblock.c_of_latchTick hl)).trans h.live⟩

end OnlyChannelOne

end Sys2Proof.Machine

/-! ### The settled statements -/

namespace Sys2Proof.Proofs
open Sys2Proof.Machine

/-- Settles O25: the latch tick loads `CPER`, which the run then counts out; a disabled block has no latch tick. -/
theorem latchTicksAreCperPlusOneApart : Obligations.LatchTicksAreCperPlusOneApart := by
  unfold Obligations.LatchTicksAreCperPlusOneApart
  exact ⟨fun _ _ => latchTick_iff_of_run_of_latchTick, fun _ => not_latchTick_of_capen_zero⟩

/-- Settles O42: channel 1 senses high, low (event), recharges, low (event), and the fifth tick latches the two events. -/
theorem scenarioOneOfTheSource : Obligations.ScenarioOneOfTheSource := by
  unfold Obligations.ScenarioOneOfTheSource
  intro cfg s sense
  have start : OnlyChannelOne 4 4 .sensing 0 0 s := ⟨rfl, rfl, rfl, rfl, rfl, fun n _ => by cases n <;> rfl, rfl⟩
  have tick0 : OnlyChannelOne 4 3 .sensing 0 0 ((sense.take 1).foldl idleTick s) := start.after_counting_tick 0b1111
  have tick1 : OnlyChannelOne 4 2 .charging 1 0 ((sense.take 2).foldl idleTick s) := tick0.after_counting_tick 0b1110
  have tick2 : OnlyChannelOne 4 1 .sensing 1 0 ((sense.take 3).foldl idleTick s) := tick1.after_counting_tick 0b1111
  have tick3 : OnlyChannelOne 4 0 .charging 2 0 ((sense.take 4).foldl idleTick s) := tick2.after_counting_tick 0b1110
  have tick4 : OnlyChannelOne 4 4 .sensing 0 2 (sense.foldl idleTick s) := tick3.after_latch_tick 0b1111
  exact ⟨⟨_, runInstrs_idle _ s, tick0.live, tick0.c⟩, ⟨_, runInstrs_idle _ s, tick1.live, tick1.c⟩,
    ⟨_, runInstrs_idle _ s, tick2.live, tick2.c⟩, ⟨_, runInstrs_idle _ s, tick3.live, tick3.c, tick3.capen_ne_zero, tick3.cnt⟩,
    ⟨_, runInstrs_idle _ s, tick4.live, tick4.c, tick4.cnt⟩⟩

end Sys2Proof.Proofs

/-!
PROOFS. The statements of spec/70_reset_and_hazards.md: the first tick after reset (R211) and the boot sequence (R213).
-/
namespace Sys2Proof.Machine

/-! ### The boot sequence -/

/-- The two boot writes leave the block at its first latch tick, with nothing counted and the cut period in `CPER` (R213). -/
theorem InResetState.after_boot_writes {s : State} (h : InResetState s) (p : Nat) {v : Nat} (a b : Pads) (hv : v % 16 ≠ 0) :
    (opTick (.wr .cper p) s a).capen = 0 ∧
    (opTick (.wr .capen v) (opTick (.wr .cper p) s a) b).latchTick ∧
    (opTick (.wr .capen v) (opTick (.wr .cper p) s a) b).cper = p % 2 ^ s.cfg.w ∧
    ∀ n, ofChannel (opTick (.wr .capen v) (opTick (.wr .cper p) s a) b).live n = 0 := by
  have hcapen : (opTick (.wr .cper p) s a).capen = 0 := (opTick_capen ..).trans h.capen
  obtain ⟨_, hcnt, hlive, _⟩ := (blockTick_opTick (.wr .cper p) s a).holds_of_capen_zero h.capen
  obtain ⟨_, _, hlive', _⟩ := (blockTick_opTick (.wr .capen v) (opTick (.wr .cper p) s a) b).holds_of_capen_zero hcapen
  refine ⟨hcapen, latchTick_of_capen_write b hv hcapen (hcnt.trans h.cnt), ?cper, fun n => ?live⟩
  case cper => exact (opTick_cper ..).trans (opTick_cper ..)
  case live => rw [hlive', hlive, h.live]

end Sys2Proof.Machine

/-! ### The settled statements -/

namespace Sys2Proof.Proofs
open Sys2Proof.Machine

/-- Settles O13: in the reset state every pad is a released GPIO pad and no channel is enabled. -/
theorem firstTickAfterResetOnlyMirrorsThePads : Obligations.FirstTickAfterResetOnlyMirrorsThePads := by
  unfold Obligations.FirstTickAfterResetOnlyMirrorsThePads
  intro s i op sense hs hi
  have hmirror : (opTick op s sense).i = sense := (opTick_i op s sense).trans (nextI_of_capen_zero hs.capen sense)
  exact ⟨_, _, exec_of_tickInput hi s, hmirror, opTick_out op s sense, hs.padO_eq_zero, hs.padOe_eq_zero,
    (blockTick_opTick op s sense).holds_of_capen_zero hs.capen⟩

/-- Settles O29: the boot writes lead to a latch tick that loads the new period, which the run then counts out up to the next latch
tick. -/
theorem bootSequenceReachesTheSecondLatch : Obligations.BootSequenceReachesTheSecondLatch := by
  unfold Obligations.BootSequenceReachesTheSecondLatch
  intro s p v a b c i op hs hv hi
  obtain ⟨hcapen, hfirst, hcper, hlive⟩ := hs.after_boot_writes p a b hv
  refine ⟨opTick (.wr .cper p) s a, opTick (.wr .capen v) (opTick (.wr .cper p) s a) b, rfl, rfl,
    not_latchTick_of_capen_zero hs.capen, not_latchTick_of_capen_zero hcapen, hfirst, ?first, fun is hpos hlen h => ?second⟩
  case first =>
    have hblock := blockTick_opTick op (opTick (.wr .capen v) (opTick (.wr .cper p) s a) b) c
    exact ⟨_, exec_of_tickInput hi _, (hblock.cnt_of_latchTick hfirst).trans hcper,
      fun n => (hblock.c_of_latchTick hfirst n).trans (hlive n)⟩
  case second =>
    obtain ⟨u, hu, hlatch, _⟩ := latchTick_iff_of_run_of_latchTick hfirst h hpos hlen
    exact ⟨u, hu, hlatch, fun hlast =>
      ⟨_, exec_of_tickInput hi u, (blockTick_opTick op u c).c_of_latchTick (hlatch.mpr hlast)⟩⟩

end Sys2Proof.Proofs
